-- ==== Sys2Proof/Word.lean ====
section
/-! DEFINITION. The two word types of the block: a byte and a `uint16` (00_scope.md R5 `BYTE_W`, `ACC_W`; R7). -/

namespace Sys2Proof

/-- A byte, an unsigned integer 0 to 255 (R5 `BYTE_W` = 8, R7). -/
abbrev Byte := BitVec 8

/-- A `uint16`, an unsigned integer 0 to 65535 (R5 `ACC_W` = 16, R7). -/
abbrev U16 := BitVec 16

end Sys2Proof
end

