-- ==== Sys2Proof/Config.lean ====
section
/-! DEFINITION. What is fixed for one block: the constants of 00_scope.md R5, the two open parameters of R6 with the
ranges the spec admits, and the free values (bytes the spec calls unspecified). -/

namespace Sys2Proof

/-- The two private byte buffers, which are the block's two address spaces (20_memory.md R40). -/
inductive Buffer where
  | tx
  | rx
  deriving DecidableEq, Repr

namespace Config

/-- `CRC_INIT`: the accumulator at the start of every `crc16` (R5). -/
def crcInit : U16 := 0xFFFF#16

/-- `CRC_POLY`: the constant XORed in when the bit shifted out is 1 (R5). -/
def crcPoly : U16 := 0xA001#16

/-- `BITS_PER_BYTE_ITER`: shift iterations per input byte (R5). -/
def bitsPerByteIter : Nat := 8

/-- `FRAME_LEN`: bytes of the Write Single Coil request frame (R5). -/
def frameLen : Nat := 8

/-- `HDR_LEN`: bytes of that frame the CRC covers (R5). -/
def hdrLen : Nat := 6

/-- `FUNC_WSC`: the function code byte (R5, R62). -/
def funcWsc : Byte := 0x05#8

/-- `COIL_ADDR`: the coil address, fixed at 0 (R5, R63). -/
def coilAddr : U16 := 0x0000#16

/-- `VAL_ON`: the value field for `value = true` (R5, R64). -/
def valOn : U16 := 0xFF00#16

/-- `VAL_OFF`: the value field for `value = false` (R5, R64). -/
def valOff : U16 := 0x0000#16

/-- `SLAVE_MIN`: the least slave id the caller may use (R5); the encoder does not check it (R116). -/
def slaveMin : Nat := 1

/-- `SLAVE_MAX`: the greatest slave id the caller may use (R5); the encoder does not check it (R116). -/
def slaveMax : Nat := 247

/-- The deployment slave set, {1, 2}: "this deployment fixes the set {1, 2}" (R5, R12, R61), least id first. It bounds no
operand of the block (R116): it is the set of ids this deployment's host uses. -/
def deploymentSlaves : List Byte := [1#8, 2#8]

/-- A byte of a buffer that holds no value: `any value` (10_state.md R25, R33, 70_reset_and_hazards.md R179,
93_implementation_defined.md U3 and U4). A FREE VALUE, opaque: no proof can see it. It depends on the buffer, on how many
reset events there have been, on the index, and on the byte left over there, if any (U4: "never written, or left over from
before an RX.CLEAR"), so that a view read twice gives the same bytes (R45), the bytes after one reset say nothing of those
after another, and a byte that is left over may or may not be what is read. Assumptions 5 and 7. -/
opaque freeByte (buf : Buffer) (resets index : Nat) (leftOver : Option Byte) : Byte

end Config

/-- The two parameters SW leaves open, `MIN_RESP_LEN` and `RX_CAP`, in exactly the ranges the spec admits (R6, R132).
A block is built with one value of each; no operation changes them. DESIGN CHOICE: State carries them, so that a statement
over all states is a statement over every admitted value (assumption 4). -/
structure Params where
  /-- `MIN_RESP_LEN`: the least length `decodeResponse` accepts, CRC included (R132). -/
  minRespLen : Nat
  /-- `RX_CAP`: capacity of `RXBUF` in bytes (R128). -/
  rxCap : Nat
  /-- "a trailing CRC of two bytes must exist" (R6). -/
  minRespLen_ge : 2 ≤ minRespLen
  /-- The encoder's own 8 bytes must decode (R6, R138). -/
  minRespLen_le : minRespLen ≤ 8
  /-- `RX_CAP >= 8` (R6). -/
  rxCap_ge : 8 ≤ rxCap
  deriving DecidableEq, Repr

/-- The spec's defaults: `MIN_RESP_LEN = 4`, `RX_CAP = 256` (R6, decisions D7 and D8). -/
def Config.defaultParams : Params where
  minRespLen := 4
  rxCap := 256
  minRespLen_ge := by decide
  minRespLen_le := by decide
  rxCap_ge := by decide

end Sys2Proof
end

