-- ==== Sys2Proof/Machine/Operands.lean ====
section
/-! DEFINITION. Operand assembly: the byte and word operators of 00_scope.md R8 and the fields of the request frame
(30_encoding.md R60 to R66; byte order 20_memory.md R42 to R44). -/

namespace Sys2Proof.Machine

/-- `zext_16(b)`: the byte as a 16-bit value, bits 15 to 8 zero (R8). -/
def zext16 (b : Byte) : U16 := b.setWidth 16

/-- `lo(c) = c[7:0]` (R8). -/
def lo (c : U16) : Byte := c.extractLsb' 0 8

/-- `hi(c) = c[15:8]` (R8). -/
def hi (c : U16) : Byte := c.extractLsb' 8 8

/-- `u16(l, h) = zext_16(l) | (zext_16(h) << 8)` (R8). -/
def u16 (l h : Byte) : U16 := zext16 l ||| (zext16 h <<< 8)

/-- A 16-bit field stored big-endian, as the coil address and the value are: high byte first (R42). -/
def bigEndian (c : U16) : List Byte := [hi c, lo c]

/-- A 16-bit field stored little-endian, as the CRC is: low byte first (R42, R65). -/
def littleEndian (c : U16) : List Byte := [lo c, hi c]

/-- The value field: `true` gives 0xFF00, `false` gives 0x0000 (R64, R115). -/
def valueField (value : Bool) : U16 := if value then Config.valOn else Config.valOff

/-- The 6 header bytes the CRC covers: slave id, function code, coil address, value (R60, R111). -/
def header (slaveId : Byte) (value : Bool) : List Byte :=
  [slaveId, Config.funcWsc] ++ bigEndian Config.coilAddr ++ bigEndian (valueField value)

/-- Byte `k` of a frame written as one 64-bit pattern, byte 0 leftmost (R66). -/
def patternByte (pattern : BitVec 64) (k : Nat) : Byte := pattern.extractLsb' (56 - 8 * k) 8

/-- The 8 bytes, in transmission order, of a frame written as one 64-bit pattern (R66). -/
def patternBytes (pattern : BitVec 64) : List Byte := (List.range Config.frameLen).map (patternByte pattern)

end Sys2Proof.Machine
end

