-- ==== Sys2Proof/Machine/Functions.lean ====
section
/-! DEFINITION. The three pure functions of the source: `crc16` (40_crc_engine.md R91 to R97), `encodeWriteSingleCoil`
(41_frame_encoder.md R111, R117) and `decodeResponse` with `parse` (42_frame_decoder.md R130, R133). -/

namespace Sys2Proof.Machine

/-- The bit step: test bit 0 before the shift, shift right by one, XOR 0xA001 if the bit was 1 (R91). -/
def crc16Bit (a : U16) : U16 := if a.getLsbD 0 then (a >>> 1) ^^^ Config.crcPoly else a >>> 1

/-- `n` bit steps. -/
def crc16Bits : Nat → U16 → U16
  | 0, a => a
  | n + 1, a => crc16Bits n (crc16Bit a)

/-- The byte step: inject the byte into the low byte of the accumulator (R92, R44), then exactly 8 bit steps (R93). -/
def crc16Step (a : U16) (b : Byte) : U16 := crc16Bits Config.bitsPerByteIter (a ^^^ zext16 b)

/-- `crc16`: the left fold of the byte step from 0xFFFF, index 0 first (R97). No final XOR, reversal or swap. -/
def crc16 (s : List Byte) : U16 := s.foldl crc16Step Config.crcInit

/-- The 8-byte request frame: the header, then its CRC, low byte first (R60, R111). -/
def requestFrame (slaveId : Byte) (value : Bool) : List Byte :=
  header slaveId value ++ littleEndian (crc16 (header slaveId value))

/-- `encodeWriteSingleCoil` (R111). A non-zero coil address is refused: the spec gives it no result (R117). Every byte
value of `slaveId` is computed (R116). -/
def encodeWriteSingleCoil (slaveId : Byte) (coilAddress : U16) (value : Bool) : Option (List Byte) :=
  if coilAddress = Config.coilAddr then some (requestFrame slaveId value) else none

/-- The two frame errors, bare kinds without payload (R134, R150). -/
inductive FrameError where
  | tooShort
  | crcMismatch
  deriving DecidableEq, Repr

/-- `ParsedResponse` (R133): `slaveId`, `functionCode` and `data` are absent in a frame shorter than 4 bytes. -/
structure ParsedResponse where
  body : List Byte
  crc : U16
  slaveId : Option Byte
  functionCode : Option Byte
  data : Option (List Byte)
  deriving DecidableEq, Repr

/-- The body of an inbound frame, "the preceding bytes": all but the last two (R67, R130). -/
def frameBody (bytes : List Byte) : List Byte := bytes.take (bytes.length - 2)

/-- The received CRC, `u16(bytes[n-2], bytes[n-1])`, low byte first (R43, R130). Used only where `n >= 2`, so that both
indices exist (R130: "the indices n-2 and n-1 exist whenever the CRC test is reached") and no default is read. -/
def frameCrc (bytes : List Byte) : U16 :=
  u16 (bytes.getD (bytes.length - 2) 0#8) (bytes.getD (bytes.length - 1) 0#8)

/-- `parse(bytes)`: copies bytes and interprets nothing (R133). -/
def parse (bytes : List Byte) : ParsedResponse where
  body := frameBody bytes
  crc := frameCrc bytes
  slaveId := if 4 ≤ bytes.length then bytes[0]? else none
  functionCode := if 4 ≤ bytes.length then bytes[1]? else none
  data := if 4 ≤ bytes.length then some ((frameBody bytes).drop 2) else none

/-- `decodeResponse(bytes)`: length test first, CRC test only when it passes (R130, R158). Nothing else is checked (R135). -/
def decodeResponse (p : Params) (bytes : List Byte) : Except FrameError ParsedResponse :=
  if bytes.length < p.minRespLen then .error .tooShort
  else if crc16 (frameBody bytes) = frameCrc bytes then .ok (parse bytes)
  else .error .crcMismatch

end Sys2Proof.Machine
end

