-- ==== Sys2Proof/Syntax.lean ====
section
/-! DEFINITION. The instructions, one constructor per row of spec/opcode_table.json, and the forms in which the host
presents something to the block: a 16-bit command word, a wire frame, the reset event. -/

namespace Sys2Proof

/-- One constructor per row of the opcode table: seven command-word rows (30_encoding.md R72, format CMD16) and two
wire-frame rows (30_encoding.md R66, format RTU8). -/
inductive Instr where
  /-- `CRC.INIT` (R98). -/
  | crcInit
  /-- `CRC.BYTE b` (R99). -/
  | crcByte (b : Byte)
  /-- `ENC.WSC id, OFF` (R113, V = 0). -/
  | encWscOff (id : Byte)
  /-- `ENC.WSC id, ON` (R113, V = 1). -/
  | encWscOn (id : Byte)
  /-- `RX.CLEAR` (R126). -/
  | rxClear
  /-- `RX.PUSH b` (R127, R128). -/
  | rxPush (b : Byte)
  /-- `DEC.RESP` (R129). -/
  | decResp
  /-- `FRAME.WSC.ON`: the frame `a 05 00 00 FF 00 l h` (R66, R111), `slaveId = a`, `crcLo = l`, `crcHi = h`. -/
  | frameWscOn (slaveId crcLo crcHi : Byte)
  /-- `FRAME.WSC.OFF`: the frame `a 05 00 00 00 00 l h` (R66, R111). -/
  | frameWscOff (slaveId crcLo crcHi : Byte)
  deriving DecidableEq, Repr

/-- What is presented to be decoded: a command word `CMD` of 16 bits (R71), or a frame as its bytes in transmission order
(R60, R66). -/
inductive PortWord where
  | command (cmd : BitVec 16)
  | frame (bytes : List Byte)
  deriving DecidableEq, Repr

/-- Why a word is not an instruction. The spec gives none of these an error code (R73); the names are the model's
(DESIGN CHOICE, assumption 12). -/
inductive DecodeError where
  /-- `Z != 000` (R73, R76 step 1). -/
  | zNotZero
  /-- `OP` 0x0 or 0x7 to 0xF (R73, R76 step 2). -/
  | noSuchOperation
  /-- `V = 1` outside `ENC.WSC` (R73, R76 step 3). -/
  | valueBitSet
  /-- `B != 0x00` in an operation that takes no byte (R73, R76 step 4). -/
  | byteNotZero
  /-- A frame that is not 8 bytes long (R60). -/
  | frameLength
  /-- A function code other than 0x05 (R62, R68). -/
  | functionCode
  /-- A coil address other than 0x0000 (R63, R117). -/
  | coilAddress
  /-- A value field other than 0xFF00 and 0x0000 (R64, R68). -/
  | valueField
  /-- Last two bytes that are not the CRC of the rest: "a frame whose CRC bytes differ is not this instruction"
  (opcode_table.json; R65, R68). -/
  | frameCrc
  deriving DecidableEq, Repr

/-- One event of the host's stream: an operation issued (R47, R184) or the reset event, which is an input and not a
command word (R170). -/
inductive HostEvent where
  | issue (w : PortWord)
  | reset
  deriving DecidableEq, Repr

end Sys2Proof
end

