-- ==== Sys2Proof/WellFormed.lean ====
section
/-! DEFINITION. Which instructions are well formed. Every operand of a command-word operation is a whole byte and every byte
is admitted (30_encoding.md R72, 41_frame_encoder.md R116); the trailer of a wire frame must be the CRC of its header
(opcode_table.json, `constraint`; 30_encoding.md R65). -/

namespace Sys2Proof

/-- `{h,l} = crc16(bytes 0 to 5)`: the constraint of the two wire-frame rows (R65, R111). -/
def frameTrailerOk (slaveId : Byte) (value : Bool) (crcLo crcHi : Byte) : Bool :=
  [crcLo, crcHi] == Machine.littleEndian (Machine.crc16 (Machine.header slaveId value))

/-- Well-formedness of an instruction. -/
def Instr.wf : Instr → Bool
  | .crcInit => true
  | .crcByte _ => true
  | .encWscOff _ => true
  | .encWscOn _ => true
  | .rxClear => true
  | .rxPush _ => true
  | .decResp => true
  | .frameWscOn a l h => frameTrailerOk a true l h
  | .frameWscOff a l h => frameTrailerOk a false l h

end Sys2Proof
end

