-- ==== Sys2Proof/Decode.lean ====
section
/-! DEFINITION. The decoder, total on any command word and any bytes, rejecting by name (30_encoding.md R60, R68, R71 to
R73, R76), and the encoder from the same tables. -/

namespace Sys2Proof

open Machine

/-- An operation that takes neither `V` nor a byte: R76 steps 3 and 4. -/
def decodeNoOperand (v : Bool) (b : Byte) (i : Instr) : Except DecodeError Instr :=
  if v then .error .valueBitSet
  else if b = 0#8 then .ok i
  else .error .byteNotZero

/-- An operation that takes a byte and no `V`: R76 step 3. -/
def decodeByteOperand (v : Bool) (i : Instr) : Except DecodeError Instr :=
  if v then .error .valueBitSet else .ok i

/-- The operation codes (R72) with their operands, `OP`, `V` and `B` given: R76 steps 2 to 5. -/
def decodeOp (op : Nat) (v : Bool) (b : Byte) : Except DecodeError Instr :=
  match op with
  | 1 => decodeNoOperand v b .crcInit
  | 2 => decodeByteOperand v (.crcByte b)
  | 3 => if v then .ok (.encWscOn b) else .ok (.encWscOff b)
  | 4 => decodeNoOperand v b .rxClear
  | 5 => decodeByteOperand v (.rxPush b)
  | 6 => decodeNoOperand v b .decResp
  | _ => .error .noSuchOperation

/-- Decoding a command word `OP[15:12] Z[11:9] V[8] B[7:0]` (R71), as the procedure of R76. -/
def decodeCommand (cmd : BitVec 16) : Except DecodeError Instr :=
  if cmd.extractLsb' 9 3 = 0#3 then
    decodeOp (cmd.extractLsb' 12 4).toNat (cmd.getLsbD 8) (cmd.extractLsb' 0 8)
  else .error .zNotZero

/-- A frame whose other fields are those of R60 is the row's instruction when its trailer is the CRC of its header. -/
def decodeTrailer (slaveId : Byte) (value : Bool) (crcLo crcHi : Byte) : Except DecodeError Instr :=
  if frameTrailerOk slaveId value crcLo crcHi then
    .ok (if value then .frameWscOn slaveId crcLo crcHi else .frameWscOff slaveId crcLo crcHi)
  else .error .frameCrc

/-- Decoding a request frame, its bytes in transmission order (R60; opcode_table.json `FRAME.WSC.ON`, `FRAME.WSC.OFF`). -/
def decodeFrame (bytes : List Byte) : Except DecodeError Instr :=
  match bytes with
  | [slaveId, functionCode, addressHi, addressLo, valueHi, valueLo, crcLo, crcHi] =>
    if functionCode ≠ Config.funcWsc then .error .functionCode
    else if [addressHi, addressLo] ≠ bigEndian Config.coilAddr then .error .coilAddress
    else if [valueHi, valueLo] = bigEndian Config.valOn then decodeTrailer slaveId true crcLo crcHi
    else if [valueHi, valueLo] = bigEndian Config.valOff then decodeTrailer slaveId false crcLo crcHi
    else .error .valueField
  | _ => .error .frameLength

/-- The decoder. -/
def decode : PortWord → Except DecodeError Instr
  | .command cmd => decodeCommand cmd
  | .frame bytes => decodeFrame bytes

/-- `CMD = (OP << 12) | (V << 8) | B` (R76). -/
def commandWord (op : BitVec 16) (v : Bool) (b : Byte) : BitVec 16 :=
  (op <<< 12) ||| ((if v then 1#16 else 0#16) <<< 8) ||| zext16 b

/-- The encoder: the inverse of decoding (R72, R76; frames R60). -/
def encode : Instr → PortWord
  | .crcInit => .command (commandWord 1 false 0)
  | .crcByte b => .command (commandWord 2 false b)
  | .encWscOff id => .command (commandWord 3 false id)
  | .encWscOn id => .command (commandWord 3 true id)
  | .rxClear => .command (commandWord 4 false 0)
  | .rxPush b => .command (commandWord 5 false b)
  | .decResp => .command (commandWord 6 false 0)
  | .frameWscOn a l h => .frame (header a true ++ [l, h])
  | .frameWscOff a l h => .frame (header a false ++ [l, h])

/-- The port word whose bits are `w`, numbered as spec/opcode_table.json numbers them: a row of at most 16 bits is a
command word (R71); a wider row is the 64-bit pattern of a frame, byte 0 in bits 63:56 (R66). Bits above `nbits` are 0.
Assumption 9. -/
def tableWord (nbits w : Nat) : PortWord :=
  if nbits ≤ 16 then .command (BitVec.ofNat 16 (w % 2 ^ nbits))
  else .frame (patternBytes (BitVec.ofNat 64 (w % 2 ^ nbits)))

/-- The instruction the decoder reads from the bits `w` of a row of `nbits` bits (none where it refuses). -/
def decodeTableWord (nbits w : Nat) : Option Instr :=
  match decode (tableWord nbits w) with
  | .ok i => some i
  | .error _ => none

end Sys2Proof
end

