-- ==== Sys2Proof/Machine/State.lean ====
section
/-! DEFINITION. The architectural state (10_state.md R20 to R27), its reset value (R33), and the reasons a step can stop.
Three fields are the model's own and no state of the spec: `cfg`, `epoch`, `port` (assumptions 1, 4, 6). -/

namespace Sys2Proof.Machine

/-- A byte buffer, the block's memory (R40): the bytes written since reset as (index, byte) pairs, indices strictly rising.
An index that is not listed holds a free value (assumption 5); a byte listed at or above `RXLEN` is left over and is not
read (R25, assumption 7). -/
abbrev Memory := List Host.Cell

/-- The canonical form of a buffer: indices strictly rising. (An unlisted index holds no known byte, so there is no entry
to leave out for being equal to it.) -/
def Memory.wf : Memory → Bool
  | [] => true
  | (i, _) :: m => m.all (fun c => decide (i < c.1)) && Memory.wf m

/-- Every listed index lies in a space of `n` bytes (R40). -/
def Memory.within (n : Nat) (m : Memory) : Bool := m.all (fun c => decide (c.1 < n))

/-- The four values of `RESULT` (R27); their codes are `Verdict.code` in Flags.lean. -/
inductive Verdict where
  | none
  | ok
  | tooShort
  | crcMismatch
  deriving DecidableEq, Repr

/-- Why a step faults. The spec gives the block no fault of any kind (60_exceptions.md R154). -/
inductive Fault where
  /-- Raised by `RX.PUSH` and `DEC.RESP` in a state with `RXLEN > RX_CAP`, which R26 excludes: the operation would use an
  index of `RXBUF` that does not exist (R40, R45). Safe: no such state is reachable, and nothing is claimed of it.
  Assumption 11. -/
  | indexOutsideRxbuf
  deriving DecidableEq, Repr

/-- Why a step is refused: the cases to which the spec gives no meaning (93_implementation_defined.md section 2). -/
inductive Refusal where
  /-- Raised by exec for an instruction that has no meaning yet; none is left. Safe. -/
  | notModelled (mnemonic : String)
  /-- Raised by step for a reserved command word (30_encoding.md R73, U1). Safe: no effect is claimed. -/
  | reservedCommandWord (why : DecodeError)
  /-- Raised by step for bytes that are none of the frames of 30_encoding.md R60 (R68, R117, U5). Safe. -/
  | notARequestFrame (why : DecodeError)
  /-- Raised by `RX.PUSH` when `RXLEN == RX_CAP` (42_frame_decoder.md R128, U2). Safe. -/
  | receiveBufferFull
  /-- Raised by `FRAME.WSC.ON` and `FRAME.WSC.OFF` given a trailer that is not the CRC of the header: "a frame whose CRC
  bytes differ is not this instruction". The decoder never gives such a term. Safe. -/
  | frameTrailerNotCrc
  deriving DecidableEq, Repr

/-- The state. -/
structure State where
  /-- `ACC`, 16 bits: the CRC accumulator (R21). -/
  acc : U16
  /-- `TXBUF[0..7]`: the last encoded request frame (R23). -/
  txbuf : Memory
  /-- `TXVALID`, 1 bit: `TXBUF` holds a frame written since reset (R24). -/
  txvalid : Bool
  /-- `RXBUF[0..RX_CAP-1]`: the inbound frame (R25). -/
  rxbuf : Memory
  /-- `RXLEN`, an integer 0 to `RX_CAP`: the number of valid bytes in `RXBUF` (R26). -/
  rxlen : Nat
  /-- `RESULT`, 2 bits: the verdict of the last `DEC.RESP` on the bytes now in `RXBUF` (R27). -/
  result : Verdict
  /-- The model's own: the parameters the block was built with (R6); no operation writes them. -/
  cfg : Params
  /-- The model's own: how many reset events there have been; it indexes the free values. -/
  epoch : Nat
  /-- The model's own: the host's stream, the next event first (R47, R184). -/
  port : List HostEvent
  deriving DecidableEq, Repr

/-- The state after reset (R33, R170), with the default parameters (R6) and nothing issued yet. -/
def State.reset : State where
  acc := Config.crcInit
  txbuf := []
  txvalid := false
  rxbuf := []
  rxlen := 0
  result := .none
  cfg := Config.defaultParams
  epoch := 0
  port := []

/-- `ACC <- v`. -/
def State.setAcc (s : State) (v : U16) : State := { s with acc := v }

/-- The transmit space becomes `m`. -/
def State.setTxbuf (s : State) (m : Memory) : State := { s with txbuf := m }

/-- `TXVALID <- v`. -/
def State.setTxvalid (s : State) (v : Bool) : State := { s with txvalid := v }

/-- The receive space becomes `m`. -/
def State.setRxbuf (s : State) (m : Memory) : State := { s with rxbuf := m }

/-- `RXLEN <- n`. -/
def State.setRxlen (s : State) (n : Nat) : State := { s with rxlen := n }

/-- `RESULT <- v`. -/
def State.setResult (s : State) (v : Verdict) : State := { s with result := v }

/-- The host's stream becomes `es`. -/
def State.setPort (s : State) (es : List HostEvent) : State := { s with port := es }

/-- The count of reset events becomes `n`. -/
def State.setEpoch (s : State) (n : Nat) : State := { s with epoch := n }

end Sys2Proof.Machine
end

