-- ==== Sys2Proof/Machine/Flags.lean ====
section
/-! DEFINITION. The flags: the codes of `RESULT` (10_state.md R27), the code of each frame error (60_exceptions.md R150),
the verdict of a call of `decodeResponse`, and the read-only view `STATUS` (10_state.md R28). -/

namespace Sys2Proof.Machine

/-- The 2-bit code of `RESULT` (R27). -/
def Verdict.code : Verdict → BitVec 2
  | .none => 0b00#2
  | .ok => 0b01#2
  | .tooShort => 0b10#2
  | .crcMismatch => 0b11#2

/-- The value of `RESULT` that reports a frame error (R27, R150). -/
def FrameError.verdict : FrameError → Verdict
  | .tooShort => .tooShort
  | .crcMismatch => .crcMismatch

/-- The value of `RESULT` that stands for the outcome of `decodeResponse` (R27, R131). -/
def verdictOf : Except FrameError ParsedResponse → Verdict
  | .ok _ => .ok
  | .error e => e.verdict

/-- `STATUS`: bit 0 `TXVALID`, bits 2:1 `RESULT`, bits 7:3 always 0 (R28). A view, not state. -/
def State.status (s : State) : BitVec 8 := 0#5 ++ s.result.code ++ BitVec.ofBool s.txvalid

end Sys2Proof.Machine
end

