-- ==== Sys2Proof/Machine/Ops.lean ====
section
/-! DEFINITION. The shared operations: byte accesses to the two buffers (20_memory.md R41), the CRC engine used by the host
and by the codec (40_crc_engine.md, decision D3), `raise` (60_exceptions.md R153) and the reset event
(70_reset_and_hazards.md R170). -/

namespace Sys2Proof.Machine

/-- The byte listed at an index, if any. -/
def Memory.read : Memory → Nat → Option Byte
  | [], _ => none
  | (j, b) :: m, i => if i = j then some b else Memory.read m i

/-- Replace the byte at an index and change no other (R41), keeping the canonical form. -/
def Memory.write : Memory → Nat → Byte → Memory
  | [], i, v => [(i, v)]
  | (j, b) :: m, i, v =>
    if i < j then (i, v) :: (j, b) :: m
    else if i = j then (i, v) :: m
    else (j, b) :: Memory.write m i v

/-- How many bytes each space has: `FRAME_LEN` and `RX_CAP` (R40). -/
def State.size (s : State) : Buffer → Nat
  | .tx => Config.frameLen
  | .rx => s.cfg.rxCap

/-- The contents of a space. -/
def State.mem (s : State) : Buffer → Memory
  | .tx => s.txbuf
  | .rx => s.rxbuf

/-- A byte written at this index still counts: of `RXBUF` only the bytes below `RXLEN` are valid (R25, R126). -/
def State.indexValid (s : State) : Buffer → Nat → Bool
  | .tx, _ => true
  | .rx, i => decide (i < s.rxlen)

/-- `MemRead(buf, i, 1)` (R9, R41). An index nothing has written since reset, and an index of `RXBUF` at or above `RXLEN`,
whether or not a byte is left over there, reads as a free value (R25, R179, U3, U4; assumptions 5 and 7). -/
def State.byteAt (s : State) (buf : Buffer) (i : Nat) : Byte :=
  match (s.mem buf).read i with
  | some b => if s.indexValid buf i then b else Config.freeByte buf s.epoch i (some b)
  | none => Config.freeByte buf s.epoch i none

/-- `MemWrite(buf, i, 1, v)` (R9, R41). -/
def State.setByte (s : State) (buf : Buffer) (i : Nat) (v : Byte) : State :=
  match buf with
  | .tx => s.setTxbuf (s.txbuf.write i v)
  | .rx => s.setRxbuf (s.rxbuf.write i v)

/-- `MemWrite` of consecutive bytes from index `i` on, in order. -/
def State.storeFrom (s : State) (buf : Buffer) : Nat → List Byte → State
  | _, [] => s
  | i, v :: vs => (s.setByte buf i v).storeFrom buf (i + 1) vs

/-- `MemRead` of the bytes at indices 0 to `n - 1`, in order. -/
def State.readBytes (s : State) (buf : Buffer) (n : Nat) : List Byte := (List.range n).map (s.byteAt buf)

/-- The valid inbound bytes, `RXBUF[0..RXLEN-1]` (R25). -/
def State.rxFrame (s : State) : List Byte := s.readBytes .rx s.rxlen

/-- `ACC <- crc16_step(ACC, b)`: one byte into the engine (R99). -/
def State.feed (s : State) (b : Byte) : State := s.setAcc (crc16Step s.acc b)

/-- `ACC <- 0xFFFF`, then every byte of `bs` into the engine, in order: the loops of `ENC.WSC` and `DEC.RESP` (R113, R129). -/
def State.runEngine (s : State) (bs : List Byte) : State := bs.foldl State.feed (s.setAcc Config.crcInit)

/-- `raise FrameError.<Kind>`: write the kind's code to `RESULT` and end the operation; nothing else happens: no control
transfer, no saved state, no mode change (R153, R157). There is nothing to return from (R159). -/
def raise (e : FrameError) (s : State) : State := s.setResult e.verdict

/-- The reset event: every element of the state takes its value of R33 (R170). The parameters stay, the bytes of both
buffers are unspecified anew (assumption 3), and the rest of the host's stream follows. -/
def resetEvent (s : State) : State where
  acc := Config.crcInit
  txbuf := []
  txvalid := false
  rxbuf := []
  rxlen := 0
  result := .none
  cfg := s.cfg
  epoch := s.epoch + 1
  port := s.port

/-- The refusal of a word the decoder rejects: a reserved command word (R73), or bytes that are no request frame (R68). -/
def rejection (w : PortWord) (why : DecodeError) : Refusal :=
  match w with
  | .command _ => .reservedCommandWord why
  | .frame _ => .notARequestFrame why

end Sys2Proof.Machine
end

