-- ==== Sys2Proof/Machine/CrcEngine.lean ====
section
/-! DEFINITION. The CRC engine's operations, `CRC.INIT` and `CRC.BYTE` (40_crc_engine.md R98, R99). -/

namespace Sys2Proof.Machine

/-- `CRC.INIT`: `ACC <- 0xFFFF` (R98). -/
def execCrcInit (s : State) : Host.Outcome State Fault Refusal := .next (s.setAcc Config.crcInit)

/-- `CRC.BYTE b`: `ACC <- crc16_step(ACC, b)` (R99). -/
def execCrcByte (b : Byte) (s : State) : Host.Outcome State Fault Refusal := .next (s.feed b)

end Sys2Proof.Machine
end

