-- ==== Sys2Proof/Machine/FrameDecoder.lean ====
section
/-! DEFINITION. The frame decoder's operations, `RX.CLEAR`, `RX.PUSH` and `DEC.RESP` (42_frame_decoder.md R126 to R129). -/

namespace Sys2Proof.Machine

/-- `RX.CLEAR`: `RXLEN <- 0`, `RESULT <- NONE`; the bytes "are not erased but all become invalid" (R126): they stay listed as
left over, and with `RXLEN` 0 every index reads as a free value (R25, R179; `State.byteAt`). -/
def execRxClear (s : State) : Host.Outcome State Fault Refusal := .next ((s.setRxlen 0).setResult .none)

/-- `RX.PUSH b`: `RXBUF[RXLEN] <- b`, `RXLEN <- RXLEN + 1`, `RESULT <- NONE` (R127); refused on a full buffer (R128). -/
def execRxPush (b : Byte) (s : State) : Host.Outcome State Fault Refusal :=
  if s.rxlen < s.cfg.rxCap then
    .next (((s.setByte .rx s.rxlen b).setRxlen (s.rxlen + 1)).setResult .none)
  else if s.rxlen = s.cfg.rxCap then .refused .receiveBufferFull
  else .fault .indexOutsideRxbuf

/-- `DEC.RESP`: length test first; then the engine over the body `RXBUF[0..n-3]` from 0xFFFF and the comparison with the
received CRC, low byte first (R129, R158). -/
def execDecResp (s : State) : Host.Outcome State Fault Refusal :=
  if s.rxlen < s.cfg.minRespLen then .next (raise .tooShort s)
  else if s.cfg.rxCap < s.rxlen then .fault .indexOutsideRxbuf
  else
    let s1 := s.runEngine (s.readBytes .rx (s.rxlen - 2))
    let received := u16 (s.byteAt .rx (s.rxlen - 2)) (s.byteAt .rx (s.rxlen - 1))
    if s1.acc = received then .next (s1.setResult .ok) else .next (raise .crcMismatch s1)

end Sys2Proof.Machine
end

