-- ==== Sys2Proof/Machine/FrameEncoder.lean ====
section
/-! DEFINITION. The frame encoder: `ENC.WSC` in its two forms (41_frame_encoder.md R113), and the two wire-frame rows of the
opcode table, each the call of `encodeWriteSingleCoil` whose value the frame is (30_encoding.md R66, R75; 41_frame_encoder.md
R111; assumption 8). -/

namespace Sys2Proof.Machine

/-- The pseudocode of R113: write the header, run the engine over `TXBUF[0..5]` from 0xFFFF, write the CRC low byte first,
set `TXVALID`. -/
def encodeInto (id : Byte) (v : Bool) (s : State) : State :=
  let s1 := s.storeFrom .tx 0 (header id v)
  let s2 := s1.runEngine (s1.readBytes .tx Config.hdrLen)
  (s2.storeFrom .tx Config.hdrLen (littleEndian s2.acc)).setTxvalid true

/-- `ENC.WSC id, OFF` (R113). -/
def execEncWscOff (id : Byte) (s : State) : Host.Outcome State Fault Refusal := .next (encodeInto id false s)

/-- `ENC.WSC id, ON` (R113). -/
def execEncWscOn (id : Byte) (s : State) : Host.Outcome State Fault Refusal := .next (encodeInto id true s)

/-- `FRAME.WSC.ON`: the frame is the value of `encodeWriteSingleCoil(a, 0, true)` (R111), which R75 expands to
`ENC.WSC a, ON`. A trailer that is not the header's CRC is not this instruction. DESIGN CHOICE, assumption 8. -/
def execFrameWscOn (a l h : Byte) (s : State) : Host.Outcome State Fault Refusal :=
  if frameTrailerOk a true l h then .next (encodeInto a true s) else .refused .frameTrailerNotCrc

/-- `FRAME.WSC.OFF`: the frame is the value of `encodeWriteSingleCoil(a, 0, false)` (R111), which R75 expands to
`ENC.WSC a, OFF`. A trailer that is not the header's CRC is not this instruction. DESIGN CHOICE, assumption 8. -/
def execFrameWscOff (a l h : Byte) (s : State) : Host.Outcome State Fault Refusal :=
  if frameTrailerOk a false l h then .next (encodeInto a false s) else .refused .frameTrailerNotCrc

end Sys2Proof.Machine
end

