-- ==== Sys2Proof/Machine/Dispatch.lean ====
section
/-! DEFINITION. The meaning of every instruction: one arm per constructor of `Instr`, each one call. -/

namespace Sys2Proof.Machine

def exec (i : Instr) (s : State) : Host.Outcome State Fault Refusal :=
  match i with
  | .crcInit => Sys2Proof.Machine.execCrcInit s
  | .crcByte b => Sys2Proof.Machine.execCrcByte b s
  | .encWscOff id => Sys2Proof.Machine.execEncWscOff id s
  | .encWscOn id => Sys2Proof.Machine.execEncWscOn id s
  | .rxClear => Sys2Proof.Machine.execRxClear s
  | .rxPush b => Sys2Proof.Machine.execRxPush b s
  | .decResp => Sys2Proof.Machine.execDecResp s
  | .frameWscOn a l h => Sys2Proof.Machine.execFrameWscOn a l h s
  | .frameWscOff a l h => Sys2Proof.Machine.execFrameWscOff a l h s

end Sys2Proof.Machine
end

