-- ==== Sys2Proof/Machine/Step.lean ====
section
/-! DEFINITION. One step: take the next event of the host's stream and carry it out whole (20_memory.md R47,
70_reset_and_hazards.md R184). With nothing issued the block is idle and loses no state (60_exceptions.md R162). -/

namespace Sys2Proof.Machine

/-- One step. A word the decoder rejects is refused and has no next state (R73). An empty stream leaves the block idle
(R170 "the block waits for the first operation", R162; assumption 2). -/
def step (s : State) : Host.Outcome State Fault Refusal :=
  match s.port with
  | [] => .next s
  | .reset :: rest => .next (resetEvent (s.setPort rest))
  | .issue w :: rest =>
    match decode w with
    | .ok i => exec i (s.setPort rest)
    | .error why => .refused (rejection w why)

/-- The host issues the instruction whose bits are `w`, so that the very next step runs it: it is put at the head of the
stream (assumption 10). -/
def State.withFetchWord (s : State) (nbits w : Nat) : State := s.setPort (.issue (tableWord nbits w) :: s.port)

end Sys2Proof.Machine
end

