-- ==== Sys2Proof/Machine/Program.lean ====
section
/-! DEFINITION. Sequences of operations (70_reset_and_hazards.md R184) and the pseudo-instructions, the three functions of the
source as the operation sequences they expand to (30_encoding.md R75). -/

namespace Sys2Proof.Machine

/-- Carry out operations one after another, each from the state the previous one left (R47), stopping at the first fault
or refusal. -/
def execAll : List Instr → State → Host.Outcome State Fault Refusal
  | [], s => .next s
  | i :: is, s =>
    match exec i s with
    | .next t => execAll is t
    | .fault f => .fault f
    | .refused r => .refused r

/-- `crc16([b0, ..., b(n-1)])` (R75). -/
def expandCrc16 (bytes : List Byte) : List Instr := .crcInit :: bytes.map .crcByte

/-- `ENC.WSC id, v` in its two table rows. -/
def encWsc (id : Byte) (v : Bool) : Instr := if v then .encWscOn id else .encWscOff id

/-- `encodeWriteSingleCoil(id, 0, v)` (R75). -/
def expandEncodeWriteSingleCoil (id : Byte) (v : Bool) : List Instr := [encWsc id v]

/-- `decodeResponse([b0, ..., b(n-1)])` (R75). -/
def expandDecodeResponse (bytes : List Byte) : List Instr := .rxClear :: bytes.map .rxPush ++ [.decResp]

/-- The host's stream that issues the operations `is` in order. -/
def issueAll (is : List Instr) : List HostEvent := is.map (fun i => .issue (encode i))

end Sys2Proof.Machine
end

