-- ==== Sys2Proof/Machine/Views.lean ====
section
/-! DEFINITION. The views through which the host observes the block (10_state.md R29). A view is a function of the state and
changes nothing. `STATUS` is `State.status` in Flags.lean. -/

namespace Sys2Proof.Machine

/-- `crc_out`: `ACC` (R29). -/
def State.crcOut (s : State) : U16 := s.acc

/-- `crc_lo = ACC[7:0]` (R29). -/
def State.crcLo (s : State) : Byte := lo s.acc

/-- `crc_hi = ACC[15:8]` (R29). -/
def State.crcHi (s : State) : Byte := hi s.acc

/-- `tx_frame`: the sequence `[TXBUF[0], ..., TXBUF[7]]` (R29). While `TXVALID == 0` the bytes nothing has written are free
values (R24, U3; assumption 5). -/
def State.txFrame (s : State) : List Byte := s.readBytes .tx Config.frameLen

/-- `parsed`: the ParsedResponse of `RXBUF[0..RXLEN-1]` when `RESULT == OK`; otherwise not available (R29, U10). -/
def State.parsed (s : State) : Option ParsedResponse :=
  match s.result with
  | .ok => some (parse s.rxFrame)
  | .none => none
  | .tooShort => none
  | .crcMismatch => none

end Sys2Proof.Machine
end

