-- ==== Sys2Proof/Safety.lean ====
section
/-! DEFINITION. What a good state is, in the terms claims use: the invariant every step keeps, and the events the host may
issue (70_reset_and_hazards.md R183). -/

namespace Sys2Proof.Machine

/-- Both buffers are in canonical form and hold only indices of their spaces (R40, R45). -/
abbrev State.BuffersOk (s : State) : Prop :=
  s.txbuf.wf = true ∧ s.txbuf.within Config.frameLen = true ∧
  s.rxbuf.wf = true ∧ s.rxbuf.within s.cfg.rxCap = true

/-- `0 <= RXLEN <= RX_CAP` (R26), and every valid byte has been written, so that no operation reads an unspecified byte
(R25, R179). -/
abbrev State.RxOk (s : State) : Prop :=
  s.rxlen ≤ s.cfg.rxCap ∧ ∀ i < s.rxlen, (s.rxbuf.read i).isSome = true

/-- While `TXVALID == 1`, all eight bytes have been written and `TXBUF` is a request frame of R60: the function code, the
coil address and the value field are as the encoder makes them and "the last two bytes always equal the CRC16 of the
preceding 6 bytes, low byte first" (R24). -/
abbrev State.TxOk (s : State) : Prop :=
  s.txvalid = true →
    (∀ i < Config.frameLen, (s.txbuf.read i).isSome = true) ∧
    s.txFrame = requestFrame (s.byteAt .tx 0) (decide (s.byteAt .tx 4 = hi Config.valOn))

/-- `RESULT` is `NONE` or the verdict of `decodeResponse` on the bytes now in `RXBUF` (R27, R177). -/
abbrev State.VerdictOk (s : State) : Prop :=
  s.result = .none ∨ s.result = verdictOf (decodeResponse s.cfg s.rxFrame)

/-- The invariant: every state a run reaches from reset meets it. -/
abbrev State.Inv (s : State) : Prop := s.BuffersOk ∧ s.RxOk ∧ s.TxOk ∧ s.VerdictOk

/-- The instruction is one the host may issue in this state: well formed, and no push on a full buffer (R128, R183). -/
def admitted (i : Instr) (s : State) : Bool :=
  i.wf && (match i with
    | .rxPush _ => decide (s.rxlen < s.cfg.rxCap)
    | .crcInit | .crcByte _ | .encWscOff _ | .encWscOn _ | .rxClear | .decResp => true
    | .frameWscOn _ _ _ | .frameWscOff _ _ _ => true)

/-- The next event of the stream, if any, is one the host may send (R183): a reset, or a word that is an instruction
admitted in this state. -/
def State.nextAdmitted (s : State) : Bool :=
  match s.port with
  | [] => true
  | .reset :: _ => true
  | .issue w :: _ =>
    match decode w with
    | .ok i => admitted i s
    | .error _ => false

/-- The slave ids of valid Modbus requests, 1 to 247: a duty of the host, which the encoder does not check (R61, R116, R183). A
claim that a frame is a valid Modbus request carries it as a premise. -/
def slaveIdValid (id : Byte) : Bool := decide (Config.slaveMin ≤ id.toNat ∧ id.toNat ≤ Config.slaveMax)

/-- The slave ids this deployment uses (R5, R61). A claim about the deployment's own frames (R114) carries it as a premise. -/
def slaveIdDeployed (id : Byte) : Bool := decide (id ∈ Config.deploymentSlaves)

/-! ### Classes of operations that claims speak of -/

/-- The six operations of R70 (seven rows, `ENC.WSC` having two); the wire-frame rows are none of them. -/
def isOperation : Instr → Bool
  | .crcInit | .crcByte _ | .encWscOff _ | .encWscOn _ | .rxClear | .rxPush _ | .decResp => true
  | .frameWscOn _ _ _ | .frameWscOff _ _ _ => false

/-- The operations that may stand after the `CRC.INIT` of a streaming computation (R100): `CRC.BYTE`, and `RX.CLEAR` and
`RX.PUSH`, which do not touch `ACC`. -/
def isStreaming : Instr → Bool
  | .crcByte _ | .rxClear | .rxPush _ => true
  | .crcInit | .encWscOff _ | .encWscOn _ | .decResp | .frameWscOn _ _ _ | .frameWscOff _ _ _ => false

/-- The bytes a list of operations feeds to the engine by `CRC.BYTE`, in order. -/
def fedBytes : List Instr → List Byte
  | [] => []
  | .crcByte b :: is => b :: fedBytes is
  | _ :: is => fedBytes is

/-- The operations that may stand between `RX.CLEAR` and the final `DEC.RESP` (R131): `RX.PUSH`, and `CRC.INIT`, `CRC.BYTE`
and `ENC.WSC`, which do not touch `RXBUF` or `RXLEN`. -/
def isReceiving : Instr → Bool
  | .crcInit | .crcByte _ | .encWscOff _ | .encWscOn _ | .rxPush _ => true
  | .rxClear | .decResp | .frameWscOn _ _ _ | .frameWscOff _ _ _ => false

/-- The bytes a list of operations pushes by `RX.PUSH`, in order. -/
def pushedBytes : List Instr → List Byte
  | [] => []
  | .rxPush b :: is => b :: pushedBytes is
  | _ :: is => pushedBytes is

end Sys2Proof.Machine
end

