-- ==== Sys2Proof/Certificates/Slice0/Obligations.lean ====
section
/-! DEFINITION. The statements for the provers. Each docstring names the rule of spec/ it formalises, or says that it is
derived. -/

open Sys2Proof Sys2Proof.Machine

/-! ### The CRC computation -/

/-- R91: bit `i` of the bit step is bit `i + 1` of the argument, flipped at bits 15, 13 and 0 when bit 0 of the argument is 1
(bit 16 of a 16-bit value reads as 0, the zero that enters at the top); with the rule's examples. -/
def Obligations.BitStepShiftsAndFlips : Prop :=
  (∀ (a : U16) (i : Nat), i < 16 →
    (crc16Bit a).getLsbD i = ((a.getLsbD (i + 1)) ^^ (a.getLsbD 0 && decide (i = 15 ∨ i = 13 ∨ i = 0)))) ∧
  crc16Bit 0xFFFE#16 = 0x7FFF#16 ∧ crc16Bit 0x7FFF#16 = 0x9FFE#16 ∧
  crc16Bit 0x0000#16 = 0x0000#16 ∧ crc16Bit 0x0001#16 = 0xA001#16

/-- R92, R93: a byte is XORed into the low byte of the accumulator, the high byte being untouched, and then exactly 8 bit
steps are made; with the rules' examples. -/
def Obligations.ByteStepInjectsThenEightBits : Prop :=
  (∀ (a : U16) (b : Byte), lo (a ^^^ zext16 b) = lo a ^^^ b ∧ hi (a ^^^ zext16 b) = hi a ∧
    crc16Step a b = crc16Bit^[8] (a ^^^ zext16 b)) ∧
  (0xFFFF#16 ^^^ zext16 0x01#8 = 0xFFFE#16) ∧ crc16Step 0xFFFF#16 0x01#8 = 0x807E#16

/-- R96, R97: `crc16` of the empty sequence is 0xFFFF, and one more byte at the end is one more byte step. -/
def Obligations.CrcIsFoldFromInit : Prop :=
  crc16 [] = 0xFFFF#16 ∧ ∀ (s : List Byte) (b : Byte), crc16 (s ++ [b]) = crc16Step (crc16 s) b

/-- R101: linearity over XOR, bijection, table form. -/
def Obligations.CrcLinearBijectiveTable : Prop :=
  (∀ x y : U16, crc16Bit (x ^^^ y) = crc16Bit x ^^^ crc16Bit y) ∧
  (∀ (a a' : U16) (b b' : Byte), crc16Step (a ^^^ a') (b ^^^ b') = crc16Step a b ^^^ crc16Step a' b') ∧
  crc16Step 0#16 0#8 = 0#16 ∧
  Function.Bijective crc16Bit ∧
  (∀ b : Byte, Function.Bijective fun a => crc16Step a b) ∧
  (∀ (a : U16) (b : Byte), crc16Step a b = (a >>> 8) ^^^ crc16Step 0#16 (lo (a ^^^ zext16 b)))

/-- R102: a sequence followed by its own CRC, low byte first, has CRC 0x0000, only that pair does it, and a frame passes the
decoder's CRC check exactly when the CRC of the whole frame is 0x0000. -/
def Obligations.CrcResidueIsZero : Prop :=
  (∀ s : List Byte, crc16 (s ++ [lo (crc16 s), hi (crc16 s)]) = 0#16) ∧
  (∀ (s : List Byte) (x y : Byte), crc16 (s ++ [x, y]) = 0#16 → x = lo (crc16 s) ∧ y = hi (crc16 s)) ∧
  (∀ f : List Byte, 2 ≤ f.length → (crc16 (frameBody f) = frameCrc f ↔ crc16 f = 0#16))

/-! ### The CRC engine -/

/-- R98: `CRC.INIT` completes in every state, writes 0xFFFF to `ACC` and changes nothing else; twice is once. -/
def Obligations.CrcInitSetsAccumulator : Prop :=
  encode .crcInit = .command 0x1000#16 ∧
  ∀ s : State, exec .crcInit s = .next { s with acc := 0xFFFF#16 } ∧
    exec .crcInit { s with acc := 0xFFFF#16 } = .next { s with acc := 0xFFFF#16 }

/-- R99: `CRC.BYTE b` completes in every state for every byte, puts the byte step of `ACC` into `ACC` and changes nothing
else; with the rule's corner values and example. -/
def Obligations.CrcByteStepsAccumulator : Prop :=
  (∀ (b : Byte) (s : State), exec (.crcByte b) s = .next { s with acc := crc16Bit^[8] (s.acc ^^^ zext16 b) }) ∧
  (∀ b : Byte, encode (.crcByte b) = .command (0x2000#16 ||| zext16 b)) ∧
  (∀ s : State, s.acc = 0xFFFF#16 → exec (.crcByte 0x00#8) s = .next { s with acc := 0x40BF#16 }) ∧
  (∀ s : State, s.acc = 0x0000#16 → exec (.crcByte 0x00#8) s = .next s) ∧
  (∀ s : State, s.acc = 0x807E#16 → exec (.crcByte 0x05#8) s = .next { s with acc := 0x23C0#16 })

/-- R100: from every state, `CRC.INIT` and then any list of `CRC.BYTE`, `RX.CLEAR` and `RX.PUSH` that is carried out to its
end leaves in `crc_out` the CRC of the bytes of its `CRC.BYTE` operations; it is carried out to its end whenever the pushes
fit the receive buffer. -/
def Obligations.StreamingRealisesCrc : Prop :=
  ∀ (ops : List Instr) (s : State), (∀ i ∈ ops, isStreaming i = true) →
    (∀ t, execAll (.crcInit :: ops) s = .next t →
      t.crcOut = crc16 (fedBytes ops) ∧ t.crcLo = lo (crc16 (fedBytes ops)) ∧ t.crcHi = hi (crc16 (fedBytes ops))) ∧
    (s.rxlen + (pushedBytes ops).length ≤ s.cfg.rxCap → ∃ t, execAll (.crcInit :: ops) s = .next t)

/-- Derived from R175, the hazard of the shared accumulator: a `CRC.BYTE` after an `ENC.WSC` continues from the encoder's CRC
and not from the host's stream, and one after a `DEC.RESP` that passes the length test continues from the CRC of the body. -/
def Obligations.AccumulatorIsShared : Prop :=
  (∀ (bytes : List Byte) (id b : Byte) (v : Bool) (s : State), ∃ t,
    execAll (.crcInit :: bytes.map .crcByte ++ [if v then .encWscOn id else .encWscOff id, .crcByte b]) s = .next t ∧
    t.crcOut = crc16 ([id, 0x05#8, 0x00#8, 0x00#8, if v then 0xFF#8 else 0x00#8, 0x00#8] ++ [b])) ∧
  (∀ (bytes : List Byte) (b : Byte) (s : State), s.cfg.minRespLen ≤ s.rxlen → s.rxlen ≤ s.cfg.rxCap → ∃ t,
    execAll (.crcInit :: bytes.map .crcByte ++ [.decResp, .crcByte b]) s = .next t ∧
    t.crcOut = crc16 (s.rxFrame.take (s.rxlen - 2) ++ [b]))

/-! ### The frame encoder -/

/-- R111, R115, R117: the frame of a slave id and a value, byte by byte, of length 8; a non-zero coil address has no
result. -/
def Obligations.RequestFrameBytes : Prop :=
  (∀ (id : Byte) (v : Bool), ∃ c : U16,
    c = crc16 [id, 0x05#8, 0x00#8, 0x00#8, if v then 0xFF#8 else 0x00#8, 0x00#8] ∧
    encodeWriteSingleCoil id 0#16 v =
      some [id, 0x05#8, 0x00#8, 0x00#8, if v then 0xFF#8 else 0x00#8, 0x00#8, c.extractLsb' 0 8, c.extractLsb' 8 8]) ∧
  (∀ (id : Byte) (a : U16) (v : Bool), a ≠ 0#16 → encodeWriteSingleCoil id a v = none)

/-- R113: `ENC.WSC id, v`, in both its rows, completes in every state for every byte and value: `tx_frame` is the function's
value, `ACC` the CRC of its first six bytes, `TXVALID` is 1, the receive side and `RESULT` are unchanged, no byte of either
buffer outside `TXBUF[0..7]` changes, and the same operands again change nothing. -/
def Obligations.EncWscBuildsFrame : Prop :=
  (∀ (id : Byte) (v : Bool) (s : State), ∃ t,
    exec (if v then .encWscOn id else .encWscOff id) s = .next t ∧
    some t.txFrame = encodeWriteSingleCoil id 0#16 v ∧ t.acc = crc16 (t.txFrame.take 6) ∧ t.txvalid = true ∧
    t.result = s.result ∧ t.rxbuf = s.rxbuf ∧ t.rxlen = s.rxlen ∧
    t.cfg = s.cfg ∧ t.epoch = s.epoch ∧ t.port = s.port ∧
    (∀ k, 8 ≤ k → t.byteAt .tx k = s.byteAt .tx k) ∧ (∀ k, t.byteAt .rx k = s.byteAt .rx k) ∧
    exec (if v then .encWscOn id else .encWscOff id) t = .next t) ∧
  (∀ (id : Byte) (v : Bool), encode (if v then .encWscOn id else .encWscOff id) =
    .command (0x3000#16 ||| (if v then 0x0100#16 else 0#16) ||| zext16 id)) ∧
  encodeWriteSingleCoil 0x01#8 0#16 true =
    some [0x01#8, 0x05#8, 0x00#8, 0x00#8, 0xFF#8, 0x00#8, 0x8C#8, 0x3A#8]

/-- Derived, from the model's own choice (assumption 8) that a wire-frame row is the call of `encodeWriteSingleCoil` whose
value it is: with the right trailer it completes in every state, leaves in `tx_frame` the very bytes of the frame, in `ACC`
the CRC of the header, `TXVALID` 1, and changes nothing else; with another trailer it is refused. -/
def Obligations.WireFrameIsTheCallItEncodes : Prop :=
  ∀ (a l h : Byte) (v : Bool) (s : State),
    ([l, h] = [lo (crc16 [a, 0x05#8, 0x00#8, 0x00#8, if v then 0xFF#8 else 0x00#8, 0x00#8]),
        hi (crc16 [a, 0x05#8, 0x00#8, 0x00#8, if v then 0xFF#8 else 0x00#8, 0x00#8])] →
      ∃ t, exec (if v then .frameWscOn a l h else .frameWscOff a l h) s = .next t ∧
        exec (if v then .encWscOn a else .encWscOff a) s = .next t ∧
        t.txFrame = [a, 0x05#8, 0x00#8, 0x00#8, if v then 0xFF#8 else 0x00#8, 0x00#8, l, h] ∧
        encode (if v then .frameWscOn a l h else .frameWscOff a l h) = .frame t.txFrame ∧
        t.acc = crc16 (t.txFrame.take 6) ∧ t.txvalid = true ∧
        t.result = s.result ∧ t.rxbuf = s.rxbuf ∧ t.rxlen = s.rxlen ∧
        t.cfg = s.cfg ∧ t.epoch = s.epoch ∧ t.port = s.port ∧
        (∀ k, 8 ≤ k → t.byteAt .tx k = s.byteAt .tx k) ∧ (∀ k, t.byteAt .rx k = s.byteAt .rx k)) ∧
    ([l, h] ≠ [lo (crc16 [a, 0x05#8, 0x00#8, 0x00#8, if v then 0xFF#8 else 0x00#8, 0x00#8]),
        hi (crc16 [a, 0x05#8, 0x00#8, 0x00#8, if v then 0xFF#8 else 0x00#8, 0x00#8])] →
      exec (if v then .frameWscOn a l h else .frameWscOff a l h) s = .refused .frameTrailerNotCrc)

/-- Derived: the frame and the accumulator an `ENC.WSC` leaves do not depend on the state before (R95, R113). The same is
stated of the wire-frame rows; that such a row can be carried out, as the call it encodes, is the model's own choice (log
entry 8), and that half rests on it. -/
def Obligations.EncoderIgnoresHistory : Prop :=
  ∀ (i : Instr) (s s' t t' : State),
    ((∃ id, i = .encWscOn id ∨ i = .encWscOff id) ∨ ∃ a l h, i = .frameWscOn a l h ∨ i = .frameWscOff a l h) →
    exec i s = .next t → exec i s' = .next t' →
    t.txFrame = t'.txFrame ∧ t.acc = t'.acc ∧ t.txvalid = t'.txvalid

/-! ### The frame decoder -/

/-- R126: `RX.CLEAR` completes in every state, empties the buffer, withdraws the verdict and changes nothing else; twice is
once. -/
def Obligations.RxClearEmptiesBuffer : Prop :=
  encode .rxClear = .command 0x4000#16 ∧
  ∀ s : State, exec .rxClear s = .next { s with rxlen := 0, result := .none } ∧
    exec .rxClear { s with rxlen := 0, result := .none } = .next { s with rxlen := 0, result := .none }

/-- R127: `RX.PUSH b` completes in every state with `RXLEN < RX_CAP`, for every byte: it appends the byte, counts it,
withdraws the verdict, and changes no other byte of either buffer and nothing else. -/
def Obligations.RxPushAppendsByte : Prop :=
  (∀ (b : Byte) (s : State), s.rxlen < s.cfg.rxCap → ∃ t, exec (.rxPush b) s = .next t ∧
    t.byteAt .rx s.rxlen = b ∧ t.rxlen = s.rxlen + 1 ∧ t.result = .none ∧
    t.rxFrame = s.rxFrame ++ [b] ∧
    (∀ k, k ≠ s.rxlen → t.byteAt .rx k = s.byteAt .rx k) ∧ (∀ k, t.byteAt .tx k = s.byteAt .tx k) ∧
    t.acc = s.acc ∧ t.txbuf = s.txbuf ∧ t.txvalid = s.txvalid ∧
    t.cfg = s.cfg ∧ t.epoch = s.epoch ∧ t.port = s.port) ∧
  (∀ b : Byte, encode (.rxPush b) = .command (0x5000#16 ||| zext16 b))

/-- R128: `RX.PUSH` on a full buffer is refused. -/
def Obligations.RxPushRefusedWhenFull : Prop :=
  ∀ (b : Byte) (s : State), s.rxlen = s.cfg.rxCap → exec (.rxPush b) s = .refused .receiveBufferFull

/-- Derived, from the model's own choice (assumption 11): in a state with `RXLEN > RX_CAP`, which R26 excludes and no run
reaches, `RX.PUSH` and `DEC.RESP` fault, since they would use an index of `RXBUF` that does not exist. -/
def Obligations.LengthOutOfRangeFaults : Prop :=
  ∀ (b : Byte) (s : State), s.cfg.rxCap < s.rxlen →
    exec (.rxPush b) s = .fault .indexOutsideRxbuf ∧ exec .decResp s = .fault .indexOutsideRxbuf

/-- R129: `DEC.RESP` completes in every state whose `RXLEN` is in its range (R26). Too short: only `RESULT` changes, to
`TOO_SHORT`. Otherwise `ACC` becomes the CRC of the body and `RESULT` becomes `OK` or `CRC_MISMATCH` as the received pair, low
byte first, equals it or not. Nothing else changes, and again gives the same. -/
def Obligations.DecRespGivesVerdict : Prop :=
  encode .decResp = .command 0x6000#16 ∧
  ∀ s : State, s.rxlen ≤ s.cfg.rxCap →
    (s.rxlen < s.cfg.minRespLen → exec .decResp s = .next { s with result := .tooShort }) ∧
    (s.cfg.minRespLen ≤ s.rxlen →
      crc16 ((List.range (s.rxlen - 2)).map (s.byteAt .rx)) =
        (zext16 (s.byteAt .rx (s.rxlen - 2)) ||| (zext16 (s.byteAt .rx (s.rxlen - 1)) <<< 8)) →
      exec .decResp s = .next { s with
        acc := crc16 ((List.range (s.rxlen - 2)).map (s.byteAt .rx)), result := .ok }) ∧
    (s.cfg.minRespLen ≤ s.rxlen →
      crc16 ((List.range (s.rxlen - 2)).map (s.byteAt .rx)) ≠
        (zext16 (s.byteAt .rx (s.rxlen - 2)) ||| (zext16 (s.byteAt .rx (s.rxlen - 1)) <<< 8)) →
      exec .decResp s = .next { s with
        acc := crc16 ((List.range (s.rxlen - 2)).map (s.byteAt .rx)), result := .crcMismatch }) ∧
    (∀ t, exec .decResp s = .next t → exec .decResp t = .next t)

/-- R130: the function `decodeResponse`, for every admitted `MIN_RESP_LEN` and every byte sequence: the length test first, and
for a sequence that passes it, which is a body and two bytes, the comparison of the body's CRC with the pair read low byte
first. -/
def Obligations.DecodeResponseChecksLengthThenCrc : Prop :=
  (∀ (p : Params) (f : List Byte), f.length < p.minRespLen → decodeResponse p f = .error .tooShort) ∧
  (∀ (p : Params) (f : List Byte), p.minRespLen ≤ f.length → ∃ body l h, f = body ++ [l, h]) ∧
  (∀ (p : Params) (body : List Byte) (l h : Byte), p.minRespLen ≤ body.length + 2 →
    (crc16 body = (zext16 l ||| (zext16 h <<< 8)) →
      decodeResponse p (body ++ [l, h]) = .ok (parse (body ++ [l, h]))) ∧
    (crc16 body ≠ (zext16 l ||| (zext16 h <<< 8)) →
      decodeResponse p (body ++ [l, h]) = .error .crcMismatch))

/-- R133: the fields of the ParsedResponse of a frame with a matching CRC; `slaveId`, `functionCode` and `data` are absent
below 4 bytes. -/
def Obligations.ParsedResponseFields : Prop :=
  (∀ (body : List Byte) (l h : Byte), crc16 body = (zext16 l ||| (zext16 h <<< 8)) →
    (parse (body ++ [l, h])).body = body ∧ (parse (body ++ [l, h])).crc = (zext16 l ||| (zext16 h <<< 8)) ∧
    (parse (body ++ [l, h])).crc = crc16 body) ∧
  (∀ (a f l h : Byte) (d : List Byte),
    (parse ([a, f] ++ d ++ [l, h])).slaveId = some a ∧ (parse ([a, f] ++ d ++ [l, h])).functionCode = some f ∧
    (parse ([a, f] ++ d ++ [l, h])).data = some d) ∧
  (∀ bytes : List Byte, bytes.length < 4 →
    (parse bytes).slaveId = none ∧ (parse bytes).functionCode = none ∧ (parse bytes).data = none)

/-- R131: from every state, `RX.CLEAR`, the pushes of a sequence that fits the buffer, and `DEC.RESP`, with `CRC.INIT`,
`CRC.BYTE` and `ENC.WSC` interleaved at will before the `DEC.RESP`, end with the verdict of `decodeResponse` on the sequence
in `RESULT` and, when it is `Ok`, its record in `parsed`. -/
def Obligations.ReceiveRealisesDecodeResponse : Prop :=
  ∀ (ops : List Instr) (s : State), (∀ i ∈ ops, isReceiving i = true) → (pushedBytes ops).length ≤ s.cfg.rxCap →
    ∃ t, execAll (.rxClear :: ops ++ [.decResp]) s = .next t ∧
      (t.result = .ok ↔ ∃ r, decodeResponse s.cfg (pushedBytes ops) = .ok r) ∧
      (t.result = .tooShort ↔ decodeResponse s.cfg (pushedBytes ops) = .error .tooShort) ∧
      (t.result = .crcMismatch ↔ decodeResponse s.cfg (pushedBytes ops) = .error .crcMismatch) ∧
      (t.result = .ok → t.parsed = some (parse (pushedBytes ops)))

/-- R138: the encoder's frame decodes without error, for every byte, value and admitted `MIN_RESP_LEN`, to the record the rule
gives. -/
def Obligations.EncodedFrameDecodesOk : Prop :=
  ∀ (p : Params) (id : Byte) (v : Bool), ∃ (f : List Byte) (r : ParsedResponse),
    encodeWriteSingleCoil id 0#16 v = some f ∧ decodeResponse p f = .ok r ∧
    r.slaveId = some id ∧ r.functionCode = some 0x05#8 ∧
    r.data = some [0x00#8, 0x00#8, if v then 0xFF#8 else 0x00#8, 0x00#8] ∧
    r.body = f.take 6 ∧ r.crc = crc16 (f.take 6)

/-- Derived (R139 (a)): a frame that decodes `Ok` and has one byte changed, any byte, the CRC bytes included, decodes
`CrcMismatch`. -/
def Obligations.SingleByteErrorIsDetected : Prop :=
  ∀ (p : Params) (f : List Byte) (k : Nat) (b : Byte) (r : ParsedResponse), k < f.length → f[k]? ≠ some b →
    decodeResponse p f = .ok r → decodeResponse p (f.set k b) = .error .crcMismatch

/-- Derived (R139 (b), (c), (d)): swapping the CRC bytes of a valid frame is detected unless they are equal; a truncation
below the minimum is `TooShort`; a valid frame followed by zero bytes is still `Ok`, and followed by zero bytes and then one
byte that is not zero it is `CrcMismatch`. -/
def Obligations.DecoderGuaranteesAndBlindSpot : Prop :=
  (∀ (p : Params) (body : List Byte) (l h : Byte) (r : ParsedResponse),
    decodeResponse p (body ++ [l, h]) = .ok r → l ≠ h → decodeResponse p (body ++ [h, l]) = .error .crcMismatch) ∧
  (∀ (p : Params) (f : List Byte) (k : Nat), k < p.minRespLen → decodeResponse p (f.take k) = .error .tooShort) ∧
  (∀ (p : Params) (f : List Byte) (n : Nat) (r : ParsedResponse), decodeResponse p f = .ok r →
    (∃ r', decodeResponse p (f ++ List.replicate n 0x00#8) = .ok r') ∧
    (∀ b : Byte, b ≠ 0x00#8 → decodeResponse p (f ++ List.replicate n 0x00#8 ++ [b]) = .error .crcMismatch))

/-- Derived from R25, R95 and R129: the verdict of `DEC.RESP`, the record, and the CRC it leaves when the length test passes
depend on the valid received bytes and the parameters alone; no byte at an index at or above `RXLEN`, no old accumulator and
nothing of the transmit side has any influence. -/
def Obligations.DecRespSeesOnlyValidBytes : Prop :=
  ∀ s s' t t' : State, s.cfg = s'.cfg → s.rxlen = s'.rxlen →
    (∀ k < s.rxlen, s.byteAt .rx k = s'.byteAt .rx k) →
    exec .decResp s = .next t → exec .decResp s' = .next t' →
    t.result = t'.result ∧ t.parsed = t'.parsed ∧ (s.cfg.minRespLen ≤ s.rxlen → t.acc = t'.acc)

/-! ### Flags, and who writes what -/

/-- Derived from the tables of R27 and R28: the fields of the view `STATUS`, the codes of `RESULT`, and its value at reset. -/
def Obligations.StatusFields : Prop :=
  (∀ s : State, s.status.getLsbD 0 = s.txvalid ∧ s.status.extractLsb' 1 2 = s.result.code ∧
    s.status.extractLsb' 3 5 = 0#5) ∧
  Verdict.code .none = 0#2 ∧ Verdict.code .ok = 1#2 ∧ Verdict.code .tooShort = 2#2 ∧ Verdict.code .crcMismatch = 3#2 ∧
  State.reset.status = 0x00#8

/-- R27: who writes `RESULT`, and what. `DEC.RESP` writes 1, 2 or 3, which is the outcome of `decodeResponse` on the valid
bytes; `RX.CLEAR`, `RX.PUSH` and reset write 0; no other operation writes it. -/
def Obligations.ResultIsTheLastVerdict : Prop :=
  (∀ (i : Instr) (s t : State), isOperation i = true → exec i s = .next t →
    ((i = .decResp ∧ t.result ≠ .none ∧
        (t.result = .ok ↔ ∃ r, decodeResponse s.cfg s.rxFrame = .ok r) ∧
        (t.result = .tooShort ↔ decodeResponse s.cfg s.rxFrame = .error .tooShort) ∧
        (t.result = .crcMismatch ↔ decodeResponse s.cfg s.rxFrame = .error .crcMismatch)) ∨
      ((i = .rxClear ∨ ∃ b, i = .rxPush b) ∧ t.result = .none) ∨
      ((i = .crcInit ∨ (∃ b, i = .crcByte b) ∨ ∃ id, i = .encWscOff id ∨ i = .encWscOn id) ∧
        t.result = s.result))) ∧
  (∀ (s t : State) (rest : List HostEvent), step { s with port := .reset :: rest } = .next t → t.result = .none) ∧
  Verdict.code .none = 0#2 ∧ Verdict.code .ok = 1#2 ∧ Verdict.code .tooShort = 2#2 ∧ Verdict.code .crcMismatch = 3#2

/-- R24: `TXVALID` is 0 after reset, becomes 1 at an `ENC.WSC`, and no operation clears it; while it is 1, in a state that
meets the model's invariant, the last two bytes of `TXBUF` are the CRC of the preceding six, low byte first. -/
def Obligations.TxvalidMeansFrame : Prop :=
  State.reset.txvalid = false ∧
  (∀ (s t : State) (rest : List HostEvent), step { s with port := .reset :: rest } = .next t → t.txvalid = false) ∧
  (∀ (i : Instr) (s t : State), isOperation i = true → exec i s = .next t →
    (t.txvalid = true ↔ s.txvalid = true ∨ ∃ id, i = .encWscOff id ∨ i = .encWscOn id)) ∧
  (∀ s : State, s.Inv → s.txvalid = true →
    s.txFrame.drop 6 = [lo (crc16 (s.txFrame.take 6)), hi (crc16 (s.txFrame.take 6))])

/-- R32: the table of who writes what, for every operation carried out and for reset; an element not listed is unchanged. -/
def Obligations.WhoWritesWhat : Prop :=
  (∀ (i : Instr) (s t : State), isOperation i = true → exec i s = .next t →
    (t.acc = match i with
      | .crcInit => 0xFFFF#16
      | .crcByte b => crc16Step s.acc b
      | .encWscOff id => crc16 (header id false)
      | .encWscOn id => crc16 (header id true)
      | .decResp => if s.rxlen < s.cfg.minRespLen then s.acc else crc16 (s.rxFrame.take (s.rxlen - 2))
      | _ => s.acc) ∧
    (match i with
      | .encWscOff id => t.txFrame = requestFrame id false ∧ ∀ k, 8 ≤ k → t.byteAt .tx k = s.byteAt .tx k
      | .encWscOn id => t.txFrame = requestFrame id true ∧ ∀ k, 8 ≤ k → t.byteAt .tx k = s.byteAt .tx k
      | _ => t.txbuf = s.txbuf) ∧
    (t.txvalid = match i with
      | .encWscOff _ => true
      | .encWscOn _ => true
      | _ => s.txvalid) ∧
    (match i with
      | .rxPush b => t.byteAt .rx s.rxlen = b ∧ ∀ k, k ≠ s.rxlen → t.byteAt .rx k = s.byteAt .rx k
      | _ => t.rxbuf = s.rxbuf) ∧
    (t.rxlen = match i with
      | .rxClear => 0
      | .rxPush _ => s.rxlen + 1
      | _ => s.rxlen) ∧
    (match i with
      | .rxClear => t.result = .none
      | .rxPush _ => t.result = .none
      | .decResp => if s.rxlen < s.cfg.minRespLen then t.result = .tooShort else t.result = .ok ∨ t.result = .crcMismatch
      | _ => t.result = s.result)) ∧
  (∀ (s : State) (rest : List HostEvent), ∃ t, step { s with port := .reset :: rest } = .next t ∧
    t.acc = 0xFFFF#16 ∧ t.txvalid = false ∧ t.rxlen = 0 ∧ t.result = .none)

/-- Derived (the model's own fields, assumptions 1, 4 and 6): no instruction writes the parameters, the count of resets or
the host's stream. -/
def Obligations.ExecKeepsModelFields : Prop :=
  ∀ (i : Instr) (s t : State), exec i s = .next t → t.cfg = s.cfg ∧ t.epoch = s.epoch ∧ t.port = s.port

/-! ### Reset -/

/-- R33, R170: the values after the reset event, from every state, and of the state after reset. -/
def Obligations.ResetValues : Prop :=
  (∀ (s : State) (rest : List HostEvent), ∃ t, step { s with port := .reset :: rest } = .next t ∧
    t.acc = 0xFFFF#16 ∧ t.txvalid = false ∧ t.rxlen = 0 ∧ t.result = .none ∧ t.status = 0x00#8) ∧
  State.reset.acc = 0xFFFF#16 ∧ State.reset.txvalid = false ∧ State.reset.rxlen = 0 ∧
  State.reset.result = .none ∧ State.reset.status = 0x00#8

/-- Derived, from the model's own choices (assumptions 3, 5 and 6): after the reset event every byte of both buffers is a free
value of the new epoch, the parameters stay, and the rest of the stream follows. -/
def Obligations.ResetForgetsBuffers : Prop :=
  ∀ (s : State) (rest : List HostEvent), ∃ t, step { s with port := .reset :: rest } = .next t ∧
    (∀ (b : Buffer) (k : Nat), t.byteAt b k = Config.freeByte b (s.epoch + 1) k none) ∧
    t.cfg = s.cfg ∧ t.port = rest

/-! ### Decoding -/

/-- R76: decoding after encoding is the identity on the operations, and encoding after decoding on the valid command words. -/
def Obligations.CommandDecodeEncodeInverse : Prop :=
  (∀ i : Instr, isOperation i = true → decode (encode i) = .ok i) ∧
  (∀ (cmd : BitVec 16) (i : Instr), decode (.command cmd) = .ok i → encode i = .command cmd ∧ isOperation i = true)

/-- Derived from R60, R65 and the opcode table's constraint: the well-formed wire-frame rows decode back, what decodes is a
well-formed row that encodes to the same bytes, and the byte sequences that decode are exactly the encoder's frames. -/
def Obligations.FrameDecodeEncodeInverse : Prop :=
  (∀ i : Instr, i.wf = true → decode (encode i) = .ok i) ∧
  (∀ (bytes : List Byte) (i : Instr), decode (.frame bytes) = .ok i → encode i = .frame bytes ∧ i.wf = true) ∧
  (∀ bytes : List Byte, (∃ i, decode (.frame bytes) = .ok i) ↔
    ∃ id v, encodeWriteSingleCoil id 0#16 v = some bytes)

/-- R72: a command word selects a row exactly when `(w & mask) == match`, with the low byte its operand; every word outside
the seven rows is no instruction. -/
def Obligations.CommandWordRows : Prop :=
  ∀ cmd : BitVec 16,
    (decode (.command cmd) = .ok .crcInit ↔ cmd &&& 0xFFFF#16 = 0x1000#16) ∧
    (∀ b, decode (.command cmd) = .ok (.crcByte b) ↔ cmd &&& 0xFF00#16 = 0x2000#16 ∧ b = cmd.extractLsb' 0 8) ∧
    (∀ b, decode (.command cmd) = .ok (.encWscOff b) ↔ cmd &&& 0xFF00#16 = 0x3000#16 ∧ b = cmd.extractLsb' 0 8) ∧
    (∀ b, decode (.command cmd) = .ok (.encWscOn b) ↔ cmd &&& 0xFF00#16 = 0x3100#16 ∧ b = cmd.extractLsb' 0 8) ∧
    (decode (.command cmd) = .ok .rxClear ↔ cmd &&& 0xFFFF#16 = 0x4000#16) ∧
    (∀ b, decode (.command cmd) = .ok (.rxPush b) ↔ cmd &&& 0xFF00#16 = 0x5000#16 ∧ b = cmd.extractLsb' 0 8) ∧
    (decode (.command cmd) = .ok .decResp ↔ cmd &&& 0xFFFF#16 = 0x6000#16) ∧
    ((∃ e, decode (.command cmd) = .error e) ↔
      cmd &&& 0xFFFF#16 ≠ 0x1000#16 ∧ cmd &&& 0xFF00#16 ≠ 0x2000#16 ∧ cmd &&& 0xFF00#16 ≠ 0x3000#16 ∧
      cmd &&& 0xFF00#16 ≠ 0x3100#16 ∧ cmd &&& 0xFFFF#16 ≠ 0x4000#16 ∧ cmd &&& 0xFF00#16 ≠ 0x5000#16 ∧
      cmd &&& 0xFFFF#16 ≠ 0x6000#16)

/-- Derived from R73: the machine takes no step on a reserved command word: `OP` 0 or 7 to 15, `Z` not zero, `V = 1` outside
`ENC.WSC`, `B` not zero in `CRC.INIT`, `RX.CLEAR` or `DEC.RESP`. -/
def Obligations.ReservedWordRefused : Prop :=
  ∀ (cmd : BitVec 16) (s : State) (rest : List HostEvent),
    (cmd.extractLsb' 12 4 = 0#4 ∨ 7 ≤ (cmd.extractLsb' 12 4).toNat ∨ cmd.extractLsb' 9 3 ≠ 0#3 ∨
      (cmd.getLsbD 8 = true ∧ cmd.extractLsb' 12 4 ≠ 3#4) ∨
      (cmd.extractLsb' 0 8 ≠ 0#8 ∧
        (cmd.extractLsb' 12 4 = 1#4 ∨ cmd.extractLsb' 12 4 = 4#4 ∨ cmd.extractLsb' 12 4 = 6#4))) →
    ∃ why, step { s with port := .issue (.command cmd) :: rest } = .refused (.reservedCommandWord why)

/-- Derived, from the model's own choices: that a frame can be put at the operation port is log entry 8, and that bytes which
are none of the encoder's frames are refused there, under a name of the model's, is log entry 12 (of the spec, R68 refuses a
non-zero coil address, and R60 gives the one frame format). -/
def Obligations.NonFrameRefused : Prop :=
  ∀ (bytes : List Byte) (s : State) (rest : List HostEvent),
    (∀ id v, encodeWriteSingleCoil id 0#16 v ≠ some bytes) →
    ∃ why, step { s with port := .issue (.frame bytes) :: rest } = .refused (.notARequestFrame why)

/-- A few words of the spec's tables, written out from the encodings of R60 and R72, decode to what they stand for. -/
def Obligations.WordsDecodeToTheirRows : Prop :=
  decodeTableWord 16 0b0001000000000000 = some .crcInit ∧
  decodeTableWord 16 0b0010000011111111 = some (.crcByte 0xFF#8) ∧
  decodeTableWord 16 0b0011000011111111 = some (.encWscOff 255#8) ∧
  decodeTableWord 16 0b0011000100000001 = some (.encWscOn 1#8) ∧
  decodeTableWord 16 0b0100000000000000 = some .rxClear ∧
  decodeTableWord 16 0b0101000010001100 = some (.rxPush 0x8C#8) ∧
  decodeTableWord 16 0b0110000000000000 = some .decResp ∧
  decodeTableWord 64 0x01050000FF008C3A = some (.frameWscOn 0x01#8 0x8C#8 0x3A#8) ∧
  decodeTableWord 64 0x020500000000CDF9 = some (.frameWscOff 0x02#8 0xCD#8 0xF9#8)

/-! ### Steps and runs -/

/-- Derived: a step whose next event is a word that decodes carries out that instruction on the state with the event taken
from the stream; with nothing issued the block is idle; and the host's fetch word is run by the very next step. The spec
orders operations by issue (R47, R184); the rest is the model's: the stream held in State (log entry 1, DESIGN CHOICE), the
idle step (log entry 2, DEDUCED from R162 and R170), wire frames at the port (log entry 8, DESIGN CHOICE), the numbering of a
frame word (log entry 9, DEDUCED) and the fetch word as one issue (log entry 10, DESIGN CHOICE). -/
def Obligations.StepRunsTheDecodedInstruction : Prop :=
  (∀ (s : State) (w : PortWord) (rest : List HostEvent) (i : Instr), decode w = .ok i →
    step { s with port := .issue w :: rest } = exec i { s with port := rest }) ∧
  (∀ s : State, s.port = [] → step s = .next s) ∧
  (∀ (s : State) (nbits w : Nat) (i : Instr), decodeTableWord nbits w = some i →
    step (s.withFetchWord nbits w) = exec i s)

/-- Derived: running the host's stream step by step is carrying out its instructions one after another, up to and including
a stop (R47, R184). It rests on the model's own choices that the stream is held in State (log entry 1) and that wire frames
can be issued at the port (log entry 8): its premise is only that the instructions are well formed. -/
def Obligations.RunOfStreamIsExecAll : Prop :=
  ∀ (ops : List Instr) (s : State) (rest : List HostEvent), (∀ i ∈ ops, i.wf = true) →
    Host.Core.run Sys2Proof.core ops.length ({ s with port := issueAll ops ++ rest } : State) =
      execAll ops { s with port := rest }

/-- R75: the three pseudo-instructions, with the expansions the rule gives, realise the three functions: from every state, the
view after the expansion equals the function's value for every input. -/
def Obligations.PseudoInstructionsRealiseFunctions : Prop :=
  (∀ (bytes : List Byte) (s : State), expandCrc16 bytes = .crcInit :: bytes.map .crcByte ∧ ∃ t,
    execAll (expandCrc16 bytes) s = .next t ∧ t.crcOut = crc16 bytes) ∧
  (∀ (id : Byte) (v : Bool) (s : State),
    expandEncodeWriteSingleCoil id v = [if v then .encWscOn id else .encWscOff id] ∧ ∃ t,
    execAll (expandEncodeWriteSingleCoil id v) s = .next t ∧
    some t.txFrame = encodeWriteSingleCoil id 0#16 v) ∧
  (∀ (bytes : List Byte) (s : State), expandDecodeResponse bytes = .rxClear :: bytes.map .rxPush ++ [.decResp] ∧
    (bytes.length ≤ s.cfg.rxCap → ∃ t, execAll (expandDecodeResponse bytes) s = .next t ∧
      t.result = verdictOf (decodeResponse s.cfg bytes) ∧
      t.parsed = (match decodeResponse s.cfg bytes with | .ok r => some r | .error _ => none)))

/-- Derived: the state after reset meets the invariant. -/
def Obligations.ResetMeetsInvariant : Prop := State.reset.Inv

/-- Derived from R24, R25, R26, R27 and R45: every step keeps the invariant: both buffers in canonical form inside their
spaces, `RXLEN` in its range and every valid byte written, `TXBUF` a request frame with its CRC while `TXVALID` is 1, and
`RESULT` nothing but the verdict on the bytes now in `RXBUF`. -/
def Obligations.StepKeepsInvariant : Prop := ∀ s t : State, s.Inv → step s = .next t → t.Inv

/-- Derived from R45 and R154: no step faults from a state that meets the invariant. -/
def Obligations.NoFaultUnderInvariant : Prop := ∀ (s : State) (f : Fault), s.Inv → step s ≠ .fault f

/-- Derived: from a state that meets the invariant, a step whose next event is one the model admits answers a next state,
which meets the invariant again. The admitted events are the operations and resets the host may send (R77, R183, R184) and,
by the model's own choices, a wire frame at the port (log entry 8, unsafe for a block that has only the command port) and a
step with nothing issued (log entry 2); R183 lists neither. The stream is held in State (log entry 1). -/
def Obligations.AdmittedStepCompletes : Prop :=
  ∀ s : State, s.Inv → s.nextAdmitted = true → ∃ t, step s = .next t ∧ t.Inv

/-! ### The deployment, and bytes without a value -/

/-- R114: the four frames of the deployment, each with its command word and the CRC of its header; with the ids of the model's
deployment set, which are these two. -/
def Obligations.DeploymentFrames : Prop :=
  (∀ id : Byte, slaveIdDeployed id = true ↔ id = 1#8 ∨ id = 2#8) ∧
  (encode (.encWscOn 1#8) = .command 0x3101#16 ∧ crc16 [0x01#8, 0x05#8, 0x00#8, 0x00#8, 0xFF#8, 0x00#8] = 0x3A8C#16 ∧
    encodeWriteSingleCoil 1#8 0#16 true =
      some [0x01#8, 0x05#8, 0x00#8, 0x00#8, 0xFF#8, 0x00#8, 0x8C#8, 0x3A#8]) ∧
  (encode (.encWscOff 1#8) = .command 0x3001#16 ∧ crc16 [0x01#8, 0x05#8, 0x00#8, 0x00#8, 0x00#8, 0x00#8] = 0xCACD#16 ∧
    encodeWriteSingleCoil 1#8 0#16 false =
      some [0x01#8, 0x05#8, 0x00#8, 0x00#8, 0x00#8, 0x00#8, 0xCD#8, 0xCA#8]) ∧
  (encode (.encWscOn 2#8) = .command 0x3102#16 ∧ crc16 [0x02#8, 0x05#8, 0x00#8, 0x00#8, 0xFF#8, 0x00#8] = 0x098C#16 ∧
    encodeWriteSingleCoil 2#8 0#16 true =
      some [0x02#8, 0x05#8, 0x00#8, 0x00#8, 0xFF#8, 0x00#8, 0x8C#8, 0x09#8]) ∧
  (encode (.encWscOff 2#8) = .command 0x3002#16 ∧ crc16 [0x02#8, 0x05#8, 0x00#8, 0x00#8, 0x00#8, 0x00#8] = 0xF9CD#16 ∧
    encodeWriteSingleCoil 2#8 0#16 false =
      some [0x02#8, 0x05#8, 0x00#8, 0x00#8, 0x00#8, 0x00#8, 0xCD#8, 0xF9#8])

/-- Derived from R25, R126 and R179; the form of the free value, a constant applied to the count of resets, the index and the
byte left over, is the model's own choice (log entries 5, 6 and 7): in every state a byte of `RXBUF` at or above `RXLEN` is a
free value, also where a byte is left over there; so after an `RX.CLEAR` every byte of `RXBUF` is one; and so is a byte of
`TXBUF` that nothing has written since reset. -/
def Obligations.InvalidBytesAreFree : Prop :=
  (∀ (s : State) (k : Nat), s.rxlen ≤ k → s.byteAt .rx k = Config.freeByte .rx s.epoch k (s.rxbuf.read k)) ∧
  (∀ s : State, ∃ t, exec .rxClear s = .next t ∧
    (∀ k, t.byteAt .rx k = Config.freeByte .rx s.epoch k (s.rxbuf.read k)) ∧ ∀ k, t.byteAt .tx k = s.byteAt .tx k) ∧
  (∀ (s : State) (k : Nat), s.txbuf.read k = none → s.byteAt .tx k = Config.freeByte .tx s.epoch k none)
end

