-- ==== Sys2Proof/Laws/Memory.lean ====
section
/-! SUPPORT. The laws of a buffer: a read after a write, a write keeps the canonical form and the space, and writes no other
byte (20_memory.md R41). -/

namespace Sys2Proof.Machine

@[simp] theorem Memory.read_nil (i : Nat) : Memory.read [] i = none := rfl

theorem Memory.read_cons (c : Host.Cell) (m : Memory) (i : Nat) :
    Memory.read (c :: m) i = if i = c.1 then some c.2 else Memory.read m i := rfl

@[simp] theorem Memory.read_write_same (m : Memory) (i : Nat) (v : Byte) : (m.write i v).read i = some v := by
  induction m with
  | nil => simp [Memory.write, Memory.read]
  | cons c m ih =>
    simp only [Memory.write]
    split
    · simp [Memory.read]
    · split <;> simp_all [Memory.read]

theorem Memory.read_write_other (m : Memory) {i k : Nat} (v : Byte) (h : k ≠ i) : (m.write i v).read k = m.read k := by
  induction m with
  | nil => simp [Memory.write, Memory.read, h]
  | cons c m ih =>
    simp only [Memory.write]
    split
    · simp [Memory.read, h]
    · split <;> simp_all [Memory.read]

theorem Memory.read_write (m : Memory) (i k : Nat) (v : Byte) :
    (m.write i v).read k = if k = i then some v else m.read k := by
  split
  · subst k; exact m.read_write_same i v
  · exact m.read_write_other v ‹_›

theorem Memory.mem_write {m : Memory} {i : Nat} {v : Byte} {c : Host.Cell} (h : c ∈ m.write i v) : c = (i, v) ∨ c ∈ m := by
  induction m with
  | nil => simpa [Memory.write] using h
  | cons d m ih =>
    simp only [Memory.write] at h
    split at h
    · simpa using h
    · split at h <;> simp only [List.mem_cons] at h ⊢ <;> tauto

/-- A write keeps the canonical form. -/
theorem Memory.wf_write {m : Memory} (i : Nat) (v : Byte) (h : m.wf = true) : (m.write i v).wf = true := by
  induction m with
  | nil => rfl
  | cons d m ih =>
    simp only [Memory.wf, Bool.and_eq_true, List.all_eq_true, decide_eq_true_eq] at h
    simp only [Memory.write]
    split
    · rename_i hlt
      simp only [Memory.wf, Bool.and_eq_true, List.all_eq_true, decide_eq_true_eq, List.mem_cons]
      exact ⟨fun c hc => hc.elim (fun e => e ▸ hlt) (fun hm => Nat.lt_trans hlt (h.1 c hm)), h⟩
    · split
      · rename_i _ heq
        simp only [Memory.wf, Bool.and_eq_true, List.all_eq_true, decide_eq_true_eq]
        exact heq ▸ h
      · simp only [Memory.wf, Bool.and_eq_true, List.all_eq_true, decide_eq_true_eq]
        refine ⟨fun c hc => ?_, ih h.2⟩
        rcases Memory.mem_write hc with rfl | hm
        · show d.1 < i; omega
        · exact h.1 c hm

/-- A write inside a space of `n` bytes keeps every index inside it. -/
theorem Memory.within_write {n : Nat} {m : Memory} {i : Nat} (v : Byte) (hi : i < n) (h : m.within n = true) :
    (m.write i v).within n = true := by
  simp only [Memory.within, List.all_eq_true, decide_eq_true_eq] at *
  intro c hc
  rcases Memory.mem_write hc with rfl | hm
  · exact hi
  · exact h c hm

/-! ### Writing the same bytes again -/

/-- A write at `i` finds the byte `v` there already: walking from the front it meets indices below `i` and then `(i, v)`. -/
def Memory.settled (i : Nat) (v : Byte) : Memory → Prop
  | [] => False
  | (j, b) :: m => (j = i ∧ b = v) ∨ (j < i ∧ Memory.settled i v m)

theorem Memory.settled_write (i : Nat) (v : Byte) (m : Memory) : Memory.settled i v (m.write i v) := by
  induction m with
  | nil => simp [Memory.write, Memory.settled]
  | cons c m ih =>
    simp only [Memory.write]
    split
    · simp [Memory.settled]
    · split
      · simp [Memory.settled]
      · exact .inr ⟨by omega, ih⟩

/-- A write at a higher index leaves a settled byte settled. -/
theorem Memory.settled_write_above {i j : Nat} {v w : Byte} {m : Memory} (hij : i < j) (h : Memory.settled i v m) :
    Memory.settled i v (m.write j w) := by
  induction m with
  | nil => exact h.elim
  | cons c m ih =>
    simp only [Memory.write]
    rcases h with ⟨h1, h2⟩ | ⟨h1, h2⟩
    · rw [if_neg (by omega), if_neg (by omega)]; exact .inl ⟨h1, h2⟩
    · rw [if_neg (by omega), if_neg (by omega)]; exact .inr ⟨h1, ih h2⟩

/-- Writing a settled byte again changes nothing. -/
theorem Memory.write_settled {i : Nat} {v : Byte} {m : Memory} (h : Memory.settled i v m) : m.write i v = m := by
  induction m with
  | nil => exact h.elim
  | cons c m ih =>
    obtain ⟨j, b⟩ := c
    rcases h with ⟨rfl, rfl⟩ | ⟨h1, h2⟩
    · simp [Memory.write]
    · simp only [Memory.write]
      rw [if_neg (by omega), if_neg (by omega), ih h2]

end Sys2Proof.Machine
end

