-- ==== Sys2Proof/Laws/State.lean ====
section
/-! SUPPORT. One lemma per field per update of State: what each update writes and that it writes nothing else. -/

namespace Sys2Proof.Machine

variable (s : State)

@[simp] theorem State.setAcc_acc (v : U16) : (s.setAcc v).acc = v := rfl
@[simp] theorem State.setAcc_txbuf (v : U16) : (s.setAcc v).txbuf = s.txbuf := rfl
@[simp] theorem State.setAcc_txvalid (v : U16) : (s.setAcc v).txvalid = s.txvalid := rfl
@[simp] theorem State.setAcc_rxbuf (v : U16) : (s.setAcc v).rxbuf = s.rxbuf := rfl
@[simp] theorem State.setAcc_rxlen (v : U16) : (s.setAcc v).rxlen = s.rxlen := rfl
@[simp] theorem State.setAcc_result (v : U16) : (s.setAcc v).result = s.result := rfl
@[simp] theorem State.setAcc_cfg (v : U16) : (s.setAcc v).cfg = s.cfg := rfl
@[simp] theorem State.setAcc_epoch (v : U16) : (s.setAcc v).epoch = s.epoch := rfl
@[simp] theorem State.setAcc_port (v : U16) : (s.setAcc v).port = s.port := rfl

@[simp] theorem State.setTxbuf_acc (v : Memory) : (s.setTxbuf v).acc = s.acc := rfl
@[simp] theorem State.setTxbuf_txbuf (v : Memory) : (s.setTxbuf v).txbuf = v := rfl
@[simp] theorem State.setTxbuf_txvalid (v : Memory) : (s.setTxbuf v).txvalid = s.txvalid := rfl
@[simp] theorem State.setTxbuf_rxbuf (v : Memory) : (s.setTxbuf v).rxbuf = s.rxbuf := rfl
@[simp] theorem State.setTxbuf_rxlen (v : Memory) : (s.setTxbuf v).rxlen = s.rxlen := rfl
@[simp] theorem State.setTxbuf_result (v : Memory) : (s.setTxbuf v).result = s.result := rfl
@[simp] theorem State.setTxbuf_cfg (v : Memory) : (s.setTxbuf v).cfg = s.cfg := rfl
@[simp] theorem State.setTxbuf_epoch (v : Memory) : (s.setTxbuf v).epoch = s.epoch := rfl
@[simp] theorem State.setTxbuf_port (v : Memory) : (s.setTxbuf v).port = s.port := rfl

@[simp] theorem State.setTxvalid_acc (v : Bool) : (s.setTxvalid v).acc = s.acc := rfl
@[simp] theorem State.setTxvalid_txbuf (v : Bool) : (s.setTxvalid v).txbuf = s.txbuf := rfl
@[simp] theorem State.setTxvalid_txvalid (v : Bool) : (s.setTxvalid v).txvalid = v := rfl
@[simp] theorem State.setTxvalid_rxbuf (v : Bool) : (s.setTxvalid v).rxbuf = s.rxbuf := rfl
@[simp] theorem State.setTxvalid_rxlen (v : Bool) : (s.setTxvalid v).rxlen = s.rxlen := rfl
@[simp] theorem State.setTxvalid_result (v : Bool) : (s.setTxvalid v).result = s.result := rfl
@[simp] theorem State.setTxvalid_cfg (v : Bool) : (s.setTxvalid v).cfg = s.cfg := rfl
@[simp] theorem State.setTxvalid_epoch (v : Bool) : (s.setTxvalid v).epoch = s.epoch := rfl
@[simp] theorem State.setTxvalid_port (v : Bool) : (s.setTxvalid v).port = s.port := rfl

@[simp] theorem State.setRxbuf_acc (v : Memory) : (s.setRxbuf v).acc = s.acc := rfl
@[simp] theorem State.setRxbuf_txbuf (v : Memory) : (s.setRxbuf v).txbuf = s.txbuf := rfl
@[simp] theorem State.setRxbuf_txvalid (v : Memory) : (s.setRxbuf v).txvalid = s.txvalid := rfl
@[simp] theorem State.setRxbuf_rxbuf (v : Memory) : (s.setRxbuf v).rxbuf = v := rfl
@[simp] theorem State.setRxbuf_rxlen (v : Memory) : (s.setRxbuf v).rxlen = s.rxlen := rfl
@[simp] theorem State.setRxbuf_result (v : Memory) : (s.setRxbuf v).result = s.result := rfl
@[simp] theorem State.setRxbuf_cfg (v : Memory) : (s.setRxbuf v).cfg = s.cfg := rfl
@[simp] theorem State.setRxbuf_epoch (v : Memory) : (s.setRxbuf v).epoch = s.epoch := rfl
@[simp] theorem State.setRxbuf_port (v : Memory) : (s.setRxbuf v).port = s.port := rfl

@[simp] theorem State.setRxlen_acc (v : Nat) : (s.setRxlen v).acc = s.acc := rfl
@[simp] theorem State.setRxlen_txbuf (v : Nat) : (s.setRxlen v).txbuf = s.txbuf := rfl
@[simp] theorem State.setRxlen_txvalid (v : Nat) : (s.setRxlen v).txvalid = s.txvalid := rfl
@[simp] theorem State.setRxlen_rxbuf (v : Nat) : (s.setRxlen v).rxbuf = s.rxbuf := rfl
@[simp] theorem State.setRxlen_rxlen (v : Nat) : (s.setRxlen v).rxlen = v := rfl
@[simp] theorem State.setRxlen_result (v : Nat) : (s.setRxlen v).result = s.result := rfl
@[simp] theorem State.setRxlen_cfg (v : Nat) : (s.setRxlen v).cfg = s.cfg := rfl
@[simp] theorem State.setRxlen_epoch (v : Nat) : (s.setRxlen v).epoch = s.epoch := rfl
@[simp] theorem State.setRxlen_port (v : Nat) : (s.setRxlen v).port = s.port := rfl

@[simp] theorem State.setResult_acc (v : Verdict) : (s.setResult v).acc = s.acc := rfl
@[simp] theorem State.setResult_txbuf (v : Verdict) : (s.setResult v).txbuf = s.txbuf := rfl
@[simp] theorem State.setResult_txvalid (v : Verdict) : (s.setResult v).txvalid = s.txvalid := rfl
@[simp] theorem State.setResult_rxbuf (v : Verdict) : (s.setResult v).rxbuf = s.rxbuf := rfl
@[simp] theorem State.setResult_rxlen (v : Verdict) : (s.setResult v).rxlen = s.rxlen := rfl
@[simp] theorem State.setResult_result (v : Verdict) : (s.setResult v).result = v := rfl
@[simp] theorem State.setResult_cfg (v : Verdict) : (s.setResult v).cfg = s.cfg := rfl
@[simp] theorem State.setResult_epoch (v : Verdict) : (s.setResult v).epoch = s.epoch := rfl
@[simp] theorem State.setResult_port (v : Verdict) : (s.setResult v).port = s.port := rfl

@[simp] theorem State.setEpoch_acc (v : Nat) : (s.setEpoch v).acc = s.acc := rfl
@[simp] theorem State.setEpoch_txbuf (v : Nat) : (s.setEpoch v).txbuf = s.txbuf := rfl
@[simp] theorem State.setEpoch_txvalid (v : Nat) : (s.setEpoch v).txvalid = s.txvalid := rfl
@[simp] theorem State.setEpoch_rxbuf (v : Nat) : (s.setEpoch v).rxbuf = s.rxbuf := rfl
@[simp] theorem State.setEpoch_rxlen (v : Nat) : (s.setEpoch v).rxlen = s.rxlen := rfl
@[simp] theorem State.setEpoch_result (v : Nat) : (s.setEpoch v).result = s.result := rfl
@[simp] theorem State.setEpoch_cfg (v : Nat) : (s.setEpoch v).cfg = s.cfg := rfl
@[simp] theorem State.setEpoch_epoch (v : Nat) : (s.setEpoch v).epoch = v := rfl
@[simp] theorem State.setEpoch_port (v : Nat) : (s.setEpoch v).port = s.port := rfl

@[simp] theorem State.setPort_acc (v : List HostEvent) : (s.setPort v).acc = s.acc := rfl
@[simp] theorem State.setPort_txbuf (v : List HostEvent) : (s.setPort v).txbuf = s.txbuf := rfl
@[simp] theorem State.setPort_txvalid (v : List HostEvent) : (s.setPort v).txvalid = s.txvalid := rfl
@[simp] theorem State.setPort_rxbuf (v : List HostEvent) : (s.setPort v).rxbuf = s.rxbuf := rfl
@[simp] theorem State.setPort_rxlen (v : List HostEvent) : (s.setPort v).rxlen = s.rxlen := rfl
@[simp] theorem State.setPort_result (v : List HostEvent) : (s.setPort v).result = s.result := rfl
@[simp] theorem State.setPort_cfg (v : List HostEvent) : (s.setPort v).cfg = s.cfg := rfl
@[simp] theorem State.setPort_epoch (v : List HostEvent) : (s.setPort v).epoch = s.epoch := rfl
@[simp] theorem State.setPort_port (v : List HostEvent) : (s.setPort v).port = v := rfl

end Sys2Proof.Machine
end

