-- ==== Sys2Proof/Laws/Words.lean ====
section
/-! SUPPORT. The small laws of the byte and word operators (00_scope.md R8) and of the two halves of an inbound frame. -/

namespace Sys2Proof.Machine

theorem lo_zext16 (b : Byte) : lo (zext16 b) = b := by
  unfold lo zext16
  apply BitVec.eq_of_getLsbD_eq
  intro i hi
  simp [hi]
  omega

theorem hi_zext16 (b : Byte) : hi (zext16 b) = 0#8 := by
  unfold hi zext16
  apply BitVec.eq_of_getLsbD_eq
  intro i hi
  simp [hi]

theorem lo_u16 (l h : Byte) : lo (u16 l h) = l := by
  unfold lo u16 zext16
  apply BitVec.eq_of_getLsbD_eq
  intro i hi
  simp [hi]
  omega

theorem hi_u16 (l h : Byte) : hi (u16 l h) = h := by
  unfold hi u16 zext16
  apply BitVec.eq_of_getLsbD_eq
  intro i hi
  have h1 : 8 + i < 16 := by omega
  simp [hi, h1]

/-- A word is its low byte XOR its high byte in the upper half. -/
theorem eq_lo_xor_hi (c : U16) : c = zext16 (lo c) ^^^ (zext16 (hi c) <<< 8) := by
  unfold zext16 lo hi
  apply BitVec.eq_of_getLsbD_eq
  intro i hi
  by_cases h : i < 8
  · simp [h, hi]
  · have e : 8 + (i - 8) = i := by omega
    have e2 : i - 8 < 8 := by omega
    simp [h, hi, e, e2]

/-- `u16(lo(c), hi(c)) == c` (R8). -/
theorem u16_lo_hi (c : U16) : u16 (lo c) (hi c) = c := by
  unfold u16
  conv_rhs => rw [eq_lo_xor_hi c]
  unfold zext16 lo hi
  apply BitVec.eq_of_getLsbD_eq
  intro i hi
  by_cases h : i < 8
  · simp [h, hi]
  · simp [h, hi]

/-- The header, byte by byte (R60). -/
theorem header_eq (id : Byte) (v : Bool) :
    header id v = [id, 0x05#8, 0x00#8, 0x00#8, if v then 0xFF#8 else 0x00#8, 0x00#8] := by
  cases v <;> rfl

theorem frameBody_append (body : List Byte) (l h : Byte) : frameBody (body ++ [l, h]) = body := by simp [frameBody]

theorem frameCrc_append (body : List Byte) (l h : Byte) : frameCrc (body ++ [l, h]) = u16 l h := by simp [frameCrc]

/-- A sequence of two bytes or more is a body and two bytes. -/
theorem exists_body_trailer {f : List Byte} (h : 2 ≤ f.length) : ∃ body l h, f = body ++ [l, h] := by
  rcases List.eq_nil_or_concat f with rfl | ⟨g, b, rfl⟩
  · simp at h
  rcases List.eq_nil_or_concat g with rfl | ⟨g, a, rfl⟩
  · simp at h
  exact ⟨g, a, b, by simp⟩

end Sys2Proof.Machine
end

