-- ==== Sys2Proof/Laws/Ops.lean ====
section
/-! SUPPORT. One lemma per shared operation that says once what it does; later proofs cite these and do not unfold the
operation. -/

namespace Sys2Proof.Machine

variable (s : State)

/-! ### Byte accesses -/

/-- A byte of `TXBUF`: what is written there, else a free value (R179). -/
theorem State.byteAt_tx (i : Nat) : s.byteAt .tx i = (s.txbuf.read i).getD (Config.freeByte .tx s.epoch i none) := by
  unfold State.byteAt State.mem State.indexValid; dsimp only; cases s.txbuf.read i <;> rfl

/-- A byte of `RXBUF`: what is written there below `RXLEN`, else a free value (R25, R179). -/
theorem State.byteAt_rx (i : Nat) : s.byteAt .rx i =
    if i < s.rxlen then (s.rxbuf.read i).getD (Config.freeByte .rx s.epoch i none)
    else Config.freeByte .rx s.epoch i (s.rxbuf.read i) := by
  unfold State.byteAt State.mem State.indexValid; dsimp only; cases s.rxbuf.read i <;> simp

/-- A byte of `RXBUF` at or above `RXLEN` is a free value, whatever is left over there (R25, U4). -/
theorem State.byteAt_rx_invalid {i : Nat} (h : s.rxlen ≤ i) :
    s.byteAt .rx i = Config.freeByte .rx s.epoch i (s.rxbuf.read i) := by
  rw [State.byteAt_rx, if_neg (by omega)]

/-- A byte of `RXBUF` that has been written and is valid is the byte written. -/
theorem State.byteAt_rx_valid {i : Nat} {b : Byte} (h : i < s.rxlen) (hr : s.rxbuf.read i = some b) : s.byteAt .rx i = b := by
  rw [State.byteAt_rx, if_pos h, hr]; rfl

theorem State.setByte_tx (i : Nat) (v : Byte) : s.setByte .tx i v = s.setTxbuf (s.txbuf.write i v) := rfl

theorem State.setByte_rx (i : Nat) (v : Byte) : s.setByte .rx i v = s.setRxbuf (s.rxbuf.write i v) := rfl

@[simp] theorem State.byteAt_setAcc (v : U16) (b : Buffer) (i : Nat) : (s.setAcc v).byteAt b i = s.byteAt b i := rfl

@[simp] theorem State.byteAt_setTxvalid (v : Bool) (b : Buffer) (i : Nat) : (s.setTxvalid v).byteAt b i = s.byteAt b i := rfl

@[simp] theorem State.byteAt_setResult (v : Verdict) (b : Buffer) (i : Nat) : (s.setResult v).byteAt b i = s.byteAt b i := rfl

@[simp] theorem State.byteAt_setPort (es : List HostEvent) (b : Buffer) (i : Nat) : (s.setPort es).byteAt b i = s.byteAt b i := rfl

/-- `MemRead` after `MemWrite` in `TXBUF`: the written byte at the written index, every other byte of either buffer as
before (R41). -/
theorem State.byteAt_setByte_tx (c : Buffer) (i k : Nat) (v : Byte) :
    (s.setByte .tx i v).byteAt c k = if c = .tx ∧ k = i then v else s.byteAt c k := by
  cases c
  · simp only [State.byteAt_tx, State.setByte_tx, State.setTxbuf_txbuf, State.setTxbuf_epoch, Memory.read_write, true_and]
    split <;> rfl
  · rw [if_neg (by simp)]; rfl

/-- Storing at `RXLEN` and counting the byte: the stored byte at that index, every other byte of either buffer as before
(R127). -/
theorem State.byteAt_append_rx (c : Buffer) (k : Nat) (v : Byte) :
    ((s.setByte .rx s.rxlen v).setRxlen (s.rxlen + 1)).byteAt c k = if c = .rx ∧ k = s.rxlen then v else s.byteAt c k := by
  cases c
  · simp [State.byteAt_tx, State.setByte_rx]
  · simp only [State.byteAt_rx, State.setByte_rx, State.setRxlen_rxlen, State.setRxlen_rxbuf, State.setRxlen_epoch,
      State.setRxbuf_rxbuf, State.setRxbuf_epoch, Memory.read_write, true_and]
    by_cases hk : k = s.rxlen
    · subst hk; simp
    · have : (k < s.rxlen + 1) ↔ k < s.rxlen := by omega
      simp [hk, this]

/-- Writing consecutive bytes writes only the buffer named, in the fields of State. -/
theorem State.storeFrom_tx (i : Nat) (vs : List Byte) :
    s.storeFrom .tx i vs = s.setTxbuf (s.storeFrom .tx i vs).txbuf := by
  induction vs generalizing s i with
  | nil => rfl
  | cons v vs ih =>
    rw [State.storeFrom, ih]; rfl

/-- What is listed at index `k` after consecutive bytes are written from index `i` on. -/
theorem State.read_storeFrom_tx (i k : Nat) (vs : List Byte) :
    (s.storeFrom .tx i vs).txbuf.read k =
      if i ≤ k ∧ k < i + vs.length then some (vs.getD (k - i) 0#8) else s.txbuf.read k := by
  induction vs generalizing s i with
  | nil =>
    rw [State.storeFrom, if_neg]
    simp only [List.length_nil]; omega
  | cons v vs ih =>
    rw [State.storeFrom, ih, State.setByte_tx, State.setTxbuf_txbuf, Memory.read_write]
    simp only [List.length_cons]
    by_cases hk : k = i
    · subst hk; simp
    · by_cases hr : i + 1 ≤ k ∧ k < i + 1 + vs.length
      · have h1 : i ≤ k ∧ k < i + (vs.length + 1) := by omega
        have h2 : k - i = (k - (i + 1)) + 1 := by omega
        rw [if_pos hr, if_pos h1, h2, List.getD_cons_succ]
      · have h1 : ¬ (i ≤ k ∧ k < i + (vs.length + 1)) := by omega
        rw [if_neg hr, if_neg hk, if_neg h1]

theorem State.storeFrom_tx_wf (i : Nat) (vs : List Byte) (h : s.txbuf.wf = true) :
    (s.storeFrom .tx i vs).txbuf.wf = true := by
  induction vs generalizing s i with
  | nil => exact h
  | cons v vs ih => exact ih _ _ (Memory.wf_write i v h)

theorem State.storeFrom_tx_within {n : Nat} (i : Nat) (vs : List Byte) (hi : i + vs.length ≤ n)
    (h : s.txbuf.within n = true) : (s.storeFrom .tx i vs).txbuf.within n = true := by
  induction vs generalizing s i with
  | nil => exact h
  | cons v vs ih =>
    simp only [List.length_cons] at hi
    exact ih _ _ (by omega) (Memory.within_write v (by omega) h)

@[simp] theorem State.length_readBytes (b : Buffer) (n : Nat) : (s.readBytes b n).length = n := by
  simp [State.readBytes]

theorem State.getElem?_readBytes (b : Buffer) {n i : Nat} (h : i < n) : (s.readBytes b n)[i]? = some (s.byteAt b i) := by
  simp [State.readBytes, h]

theorem State.readBytes_succ (b : Buffer) (n : Nat) :
    s.readBytes b (n + 1) = s.readBytes b n ++ [s.byteAt b n] := by
  simp [State.readBytes, List.range_succ]

/-- Two states that read alike below `n` give the same bytes. -/
theorem State.readBytes_congr {s t : State} {b : Buffer} {n : Nat} (h : ∀ i < n, t.byteAt b i = s.byteAt b i) :
    t.readBytes b n = s.readBytes b n := by
  refine List.map_congr_left fun i hi => h i (List.mem_range.mp hi)

/-- Fewer bytes of a buffer are a beginning of more. -/
theorem State.take_readBytes (b : Buffer) (n k : Nat) (h : k ≤ n) : (s.readBytes b n).take k = s.readBytes b k := by
  simp [State.readBytes, ← List.map_take, List.take_range, Nat.min_eq_left h]

/-! ### The engine -/

theorem crc16_append (s t : List Byte) : crc16 (s ++ t) = t.foldl crc16Step (crc16 s) := List.foldl_append

/-- Feeding bytes one by one changes `ACC` only. -/
theorem State.foldl_feed (bs : List Byte) : bs.foldl State.feed s = s.setAcc (bs.foldl crc16Step s.acc) := by
  induction bs generalizing s with
  | nil => rfl
  | cons b bs ih => rw [List.foldl_cons, ih]; rfl

/-- The loop of `ENC.WSC` and of `DEC.RESP` leaves `crc16` of the bytes in `ACC` and changes nothing else: the old value of
`ACC` has no influence. -/
theorem State.runEngine_eq (bs : List Byte) : s.runEngine bs = s.setAcc (crc16 bs) := by
  rw [State.runEngine, State.foldl_feed]; rfl

/-! ### The encoder -/

@[simp] theorem length_header (id : Byte) (v : Bool) : (header id v).length = 6 := rfl

@[simp] theorem length_littleEndian (c : U16) : (littleEndian c).length = 2 := rfl

@[simp] theorem length_requestFrame (id : Byte) (v : Bool) : (requestFrame id v).length = 8 := rfl

/-- After the header is written the engine reads back the header. -/
theorem State.readBytes_storeFrom_header (id : Byte) (v : Bool) :
    (s.storeFrom .tx 0 (header id v)).readBytes .tx Config.hdrLen = header id v := by
  apply List.ext_getElem?
  intro i
  by_cases h : i < 6
  · rw [State.getElem?_readBytes (n := Config.hdrLen) _ _ h, State.byteAt_tx, State.read_storeFrom_tx]
    simp only [true_and, length_header, Nat.zero_le, Nat.zero_add, h, if_true, Nat.sub_zero, Option.getD_some]
    rw [List.getElem?_eq_getElem (by simpa using h), List.getD_eq_getElem?_getD,
      List.getElem?_eq_getElem (by simpa using h)]
    rfl
  · rw [List.getElem?_eq_none (by simpa [Config.hdrLen] using h), List.getElem?_eq_none (by simpa using h)]

/-- Everything `ENC.WSC` does, as field updates (R113). -/
theorem encodeInto_eq (id : Byte) (v : Bool) :
    encodeInto id v s =
      ((s.setTxbuf (s.storeFrom .tx 0 (requestFrame id v)).txbuf).setAcc (crc16 (header id v))).setTxvalid true := by
  rw [encodeInto, State.readBytes_storeFrom_header, State.runEngine_eq, State.storeFrom_tx _ Config.hdrLen]
  rfl

/-- What `TXBUF` lists after `ENC.WSC`: the eight bytes of the frame, and elsewhere what it listed before. -/
theorem encodeInto_read (id : Byte) (v : Bool) (k : Nat) :
    (encodeInto id v s).txbuf.read k = if k < 8 then some ((requestFrame id v).getD k 0#8) else s.txbuf.read k := by
  rw [encodeInto_eq]
  simp only [State.setTxvalid_txbuf, State.setAcc_txbuf, State.setTxbuf_txbuf, State.read_storeFrom_tx,
    length_requestFrame, Nat.zero_le, true_and, Nat.zero_add, Nat.sub_zero]

/-- What a byte of `TXBUF` reads as after `ENC.WSC`. -/
theorem encodeInto_byteAt (id : Byte) (v : Bool) {k : Nat} (h : k < 8) :
    (encodeInto id v s).byteAt .tx k = (requestFrame id v).getD k 0#8 := by
  rw [State.byteAt_tx, encodeInto_read, if_pos h]; rfl

/-! ### The inbound frame -/

@[simp] theorem State.length_rxFrame : s.rxFrame.length = s.rxlen := s.length_readBytes .rx s.rxlen

/-- The body of the inbound frame is what `DEC.RESP` feeds to the engine (R129). -/
theorem State.frameBody_rxFrame : frameBody s.rxFrame = s.readBytes .rx (s.rxlen - 2) := by
  rw [frameBody, State.length_rxFrame, State.rxFrame, State.take_readBytes _ _ _ _ (Nat.sub_le _ _)]

/-- The received CRC of the inbound frame is the pair `DEC.RESP` reads (R129). -/
theorem State.frameCrc_rxFrame (h : 2 ≤ s.rxlen) :
    frameCrc s.rxFrame = u16 (s.byteAt .rx (s.rxlen - 2)) (s.byteAt .rx (s.rxlen - 1)) := by
  rw [frameCrc, State.length_rxFrame, List.getD_eq_getElem?_getD, List.getD_eq_getElem?_getD, State.rxFrame,
    State.getElem?_readBytes _ _ (by omega), State.getElem?_readBytes _ _ (by omega)]
  rfl

/-! ### `raise` and the reset event -/

/-- `raise` writes `RESULT` and nothing else (R153). -/
@[simp] theorem raise_eq (e : FrameError) : raise e s = s.setResult e.verdict := rfl

/-- The reset event leaves no byte listed, keeps the parameters and the stream, and starts a new epoch (R170). -/
theorem resetEvent_eq : resetEvent s = { State.reset with cfg := s.cfg, epoch := s.epoch + 1, port := s.port } := rfl

end Sys2Proof.Machine
end

