-- ==== Sys2Proof/Laws/PerInstr.lean ====
section
/-! SUPPORT. Statements made instruction by instruction. Family `TableRow`: the encoding of a well-formed instruction has the
fixed bits of its row of spec/opcode_table.json. -/

namespace Sys2Proof.Laws.TableRow

open Sys2Proof.Machine

/-- The word is a command word with the row's fixed bits, `(w & mask) == match` (30_encoding.md R72). -/
def isRow (w : PortWord) (mask value : BitVec 16) : Prop :=
  ∃ cmd, w = .command cmd ∧ cmd &&& mask = value

/-- The word is a frame of 8 bytes with the row's fixed bits, mask and value written as 64-bit patterns, byte 0 leftmost
(30_encoding.md R66). -/
def isFrameRow (w : PortWord) (mask value : BitVec 64) : Prop :=
  ∃ bytes, w = .frame bytes ∧ List.zipWith (· &&& ·) bytes (patternBytes mask) = patternBytes value

/-- The encoding has the `mask` and `match` of its row of the opcode table. -/
def Statement (i : Instr) : Prop :=
  i.wf = true →
    match i with
    | .crcInit => isRow (encode i) 0xFFFF#16 0x1000#16
    | .crcByte _ => isRow (encode i) 0xFF00#16 0x2000#16
    | .encWscOff _ => isRow (encode i) 0xFF00#16 0x3000#16
    | .encWscOn _ => isRow (encode i) 0xFF00#16 0x3100#16
    | .rxClear => isRow (encode i) 0xFFFF#16 0x4000#16
    | .rxPush _ => isRow (encode i) 0xFF00#16 0x5000#16
    | .decResp => isRow (encode i) 0xFFFF#16 0x6000#16
    | .frameWscOn _ _ _ => isFrameRow (encode i) 0x00FFFFFFFFFF0000#64 0x00050000FF000000#64
    | .frameWscOff _ _ _ => isFrameRow (encode i) 0x00FFFFFFFFFF0000#64 0x0005000000000000#64

theorem crcInit : Statement .crcInit := fun _ => ⟨_, rfl, by decide⟩

theorem crcByte (b : Byte) : Statement (.crcByte b) := fun _ => ⟨_, rfl, by revert b; decide⟩

theorem encWscOff (id : Byte) : Statement (.encWscOff id) := fun _ => ⟨_, rfl, by revert id; decide⟩

theorem encWscOn (id : Byte) : Statement (.encWscOn id) := fun _ => ⟨_, rfl, by revert id; decide⟩

theorem rxClear : Statement .rxClear := fun _ => ⟨_, rfl, by decide⟩

theorem rxPush (b : Byte) : Statement (.rxPush b) := fun _ => ⟨_, rfl, by revert b; decide⟩

theorem decResp : Statement .decResp := fun _ => ⟨_, rfl, by decide⟩

theorem patternBytes_mask : patternBytes 0x00FFFFFFFFFF0000#64 =
    [0x00#8, 0xFF#8, 0xFF#8, 0xFF#8, 0xFF#8, 0xFF#8, 0x00#8, 0x00#8] := by decide

theorem frameWscOn (a l h : Byte) : Statement (.frameWscOn a l h) := fun _ =>
  ⟨_, rfl, by rw [patternBytes_mask]; simp [header, bigEndian, valueField]; decide⟩

theorem frameWscOff (a l h : Byte) : Statement (.frameWscOff a l h) := fun _ =>
  ⟨_, rfl, by rw [patternBytes_mask]; simp [header, bigEndian, valueField]; decide⟩

end Sys2Proof.Laws.TableRow
end

