-- ==== Sys2Proof/Laws/Step.lean ====
section
/-! SUPPORT. What one step can do, said once: the inversion of a step, and of each operation that has more than one
outcome. -/

namespace Sys2Proof.Machine

/-- A step that answers a next state was idle, a reset event, or one decoded instruction carried out. -/
theorem step_cases {s t : State} (h : step s = .next t) :
    (s.port = [] ∧ t = s) ∨
    (∃ rest, s.port = .reset :: rest ∧ t = resetEvent (s.setPort rest)) ∨
    (∃ w rest i, s.port = .issue w :: rest ∧ decode w = .ok i ∧ exec i (s.setPort rest) = .next t) := by
  unfold step at h
  split at h
  · next hp => exact .inl ⟨hp, by injection h with h; exact h.symm⟩
  · next rest hp => exact .inr (.inl ⟨rest, hp, by injection h with h; exact h.symm⟩)
  · next w rest hp =>
    split at h
    · next i hd => exact .inr (.inr ⟨w, rest, i, hp, hd, h⟩)
    · cases h

/-- `RX.PUSH` answers a next state only below `RX_CAP` (R127, R128). -/
theorem execRxPush_cases {b : Byte} {s t : State} (h : execRxPush b s = .next t) :
    s.rxlen < s.cfg.rxCap ∧ t = ((s.setRxbuf (s.rxbuf.write s.rxlen b)).setRxlen (s.rxlen + 1)).setResult .none := by
  unfold execRxPush at h
  split at h
  · next hlt => exact ⟨hlt, by injection h with h; exact h.symm⟩
  · split at h <;> cases h

/-- A wire-frame row answers a next state only with the right trailer, and then does what `ENC.WSC` does. -/
theorem execFrameWscOn_cases {a l h : Byte} {s t : State} (hx : execFrameWscOn a l h s = .next t) :
    frameTrailerOk a true l h = true ∧ t = encodeInto a true s := by
  unfold execFrameWscOn at hx
  split at hx
  · next ht => exact ⟨ht, by injection hx with hx; exact hx.symm⟩
  · cases hx

theorem execFrameWscOff_cases {a l h : Byte} {s t : State} (hx : execFrameWscOff a l h s = .next t) :
    frameTrailerOk a false l h = true ∧ t = encodeInto a false s := by
  unfold execFrameWscOff at hx
  split at hx
  · next ht => exact ⟨ht, by injection hx with hx; exact hx.symm⟩
  · cases hx

/-- The outcomes of `DEC.RESP` that answer a next state (R129). -/
theorem execDecResp_cases {s t : State} (h : execDecResp s = .next t) :
    (s.rxlen < s.cfg.minRespLen ∧ t = s.setResult .tooShort) ∨
    (s.cfg.minRespLen ≤ s.rxlen ∧ s.rxlen ≤ s.cfg.rxCap ∧
      ((crc16 (s.readBytes .rx (s.rxlen - 2)) = u16 (s.byteAt .rx (s.rxlen - 2)) (s.byteAt .rx (s.rxlen - 1)) ∧
          t = (s.setAcc (crc16 (s.readBytes .rx (s.rxlen - 2)))).setResult .ok) ∨
        (crc16 (s.readBytes .rx (s.rxlen - 2)) ≠ u16 (s.byteAt .rx (s.rxlen - 2)) (s.byteAt .rx (s.rxlen - 1)) ∧
          t = (s.setAcc (crc16 (s.readBytes .rx (s.rxlen - 2)))).setResult .crcMismatch))) := by
  unfold execDecResp at h
  split at h
  · next hlt => exact .inl ⟨hlt, by injection h with h; exact h.symm⟩
  · next hge =>
    split at h
    · cases h
    · next hcap =>
      refine .inr ⟨by omega, by omega, ?_⟩
      simp only [State.runEngine_eq, State.setAcc_acc] at h
      split at h
      · next he => exact .inl ⟨he, by injection h with h; exact h.symm⟩
      · next he => exact .inr ⟨he, by injection h with h; exact h.symm⟩

/-- A run whose first step answers a next state goes on from it. -/
theorem run_succ_next {k : Nat} {s s' : State} (h : step s = .next s') :
    Host.Core.run Sys2Proof.core (k + 1) s = Host.Core.run Sys2Proof.core k s' := by
  have h' : Sys2Proof.core.step s = .next s' := h
  simp only [Host.Core.run, h']

/-- A run whose first step faults ends in that fault. -/
theorem run_succ_fault {k : Nat} {s : State} {f : Fault} (h : step s = .fault f) :
    Host.Core.run Sys2Proof.core (k + 1) s = .fault f := by
  have h' : Sys2Proof.core.step s = .fault f := h
  simp only [Host.Core.run, h']

/-- A run whose first step is refused ends in that refusal. -/
theorem run_succ_refused {k : Nat} {s : State} {r : Refusal} (h : step s = .refused r) :
    Host.Core.run Sys2Proof.core (k + 1) s = .refused r := by
  have h' : Sys2Proof.core.step s = .refused r := h
  simp only [Host.Core.run, h']

end Sys2Proof.Machine
end

