-- ==== Sys2Proof/Tests/Slice0.lean ====
section
/-! SUPPORT. Tests: the spec's own vectors (spec/95_test_vectors.md, cited by section), the decoding of one word of every
row written out from its encoding, the smoke tests of WellFormed, and for each statement with hypotheses a witness that
meets them. -/

namespace Sys2Proof.Tests

open Sys2Proof Sys2Proof.Machine

set_option maxRecDepth 8000

/-! ### Small states -/

/-- The cells of a buffer that holds `bs` from index 0 on. -/
def cells (bs : List Byte) : Memory := (List.range bs.length).zip bs

/-- The state after reset with `bs` received and `ACC = acc`. -/
def received (acc : U16) (bs : List Byte) : State :=
  ((State.reset.setAcc acc).setRxbuf (cells bs)).setRxlen bs.length

/-- The parameters with `MIN_RESP_LEN = 2`. -/
def params2 : Params := ⟨2, 256, by decide, by decide, by decide⟩

/-- A field of the next state, if there is one. -/
def nextIs {α : Type} [DecidableEq α] (o : Host.Outcome State Fault Refusal) (f : State → α) (v : α) : Bool :=
  match o with
  | .next t => decide (f t = v)
  | .fault _ => false
  | .refused _ => false

/-- The outcome of a decode is this error. -/
def decodesTo (r : Except DecodeError Instr) (e : DecodeError) : Bool :=
  match r with
  | .ok _ => false
  | .error d => decide (d = e)

/-- The verdict of `decodeResponse`. -/
def verdict (p : Params) (bs : List Byte) : Verdict := verdictOf (decodeResponse p bs)

/-- `01 05 00 00 FF 00 8C 3A`, slave 1 ON (R114). -/
def frameOn1 : List Byte := [0x01#8, 0x05#8, 0x00#8, 0x00#8, 0xFF#8, 0x00#8, 0x8C#8, 0x3A#8]

/-- `02 05 00 00 00 00 CD F9`, slave 2 OFF (R114). -/
def frameOff2 : List Byte := [0x02#8, 0x05#8, 0x00#8, 0x00#8, 0x00#8, 0x00#8, 0xCD#8, 0xF9#8]

/-- A state with an encoded frame and an accepted inbound frame, the end state of program P2. -/
def stateP2 : State :=
  ((((received 0x3A8C#16 frameOn1).setTxbuf (cells frameOn1)).setTxvalid true).setResult .ok)

/-! ### The pure functions (sections 2 to 4) -/

theorem test_crc16Bit_vectors : (crc16Bit 0x8000#16, crc16Bit 0xFFFF#16, crc16Bit 0xA001#16, crc16Bit 0x4003#16) =
    (0x4000#16, 0xDFFE#16, 0xF001#16, 0x8000#16) := by decide

theorem test_crc16Step_table : (crc16Step 0#16 0x01#8, crc16Step 0#16 0x80#8, crc16Step 0#16 0xFF#8, crc16Step 0#16 0xA9#8) =
    (0xC0C1#16, 0xA001#16, 0x4040#16, 0x7EC0#16) := by decide

theorem test_crc16_check_string : crc16 [0x31#8, 0x32#8, 0x33#8, 0x34#8, 0x35#8, 0x36#8, 0x37#8, 0x38#8, 0x39#8] = 0x4B37#16 := by
  decide

theorem test_crc16_header_on1 : crc16 [0x01#8, 0x05#8, 0x00#8, 0x00#8, 0xFF#8, 0x00#8] = 0x3A8C#16 := by decide

theorem test_requestFrame_deployment : (requestFrame 1#8 true, requestFrame 2#8 false) = (frameOn1, frameOff2) := by decide

/-- R5: the set {1, 2}, inside the range of valid ids (R61), and nothing else of the ids 0 to 255. -/
theorem test_deployment_set : (List.range 256).filter (fun n => slaveIdDeployed (BitVec.ofNat 8 n)) = [1, 2] ∧
    Config.deploymentSlaves.all slaveIdValid = true := by decide

theorem test_requestFrame_zero_id :
    requestFrame 0#8 true = [0x00#8, 0x05#8, 0x00#8, 0x00#8, 0xFF#8, 0x00#8, 0x8D#8, 0xEB#8] := by decide

theorem test_requestFrame_highest_id :
    requestFrame 247#8 false = [0xF7#8, 0x05#8, 0x00#8, 0x00#8, 0x00#8, 0x00#8, 0xD9#8, 0x5C#8] := by decide

theorem test_decode_two_bytes_default : verdict Config.defaultParams [0xFF#8, 0xFF#8] = .tooShort := by decide

theorem test_decode_two_bytes_min2 : verdict params2 [0xFF#8, 0xFF#8] = .ok := by decide

theorem test_decode_swapped_crc :
    verdict Config.defaultParams [0x01#8, 0x05#8, 0x00#8, 0x00#8, 0xFF#8, 0x00#8, 0x3A#8, 0x8C#8] = .crcMismatch := by decide

theorem test_decode_wrong_literal :
    verdict Config.defaultParams [0x01#8, 0x05#8, 0x00#8, 0x00#8, 0xFF#8, 0x00#8, 0xCA#8, 0x8D#8] = .crcMismatch := by decide

theorem test_decode_trailing_zero : verdict Config.defaultParams (frameOn1 ++ [0x00#8]) = .ok := by decide

theorem test_parse_shortest : parse [0x01#8, 0x05#8, 0xC0#8, 0x23#8] =
    ⟨[0x01#8, 0x05#8], 0x23C0#16, some 0x01#8, some 0x05#8, some []⟩ := by decide

theorem test_parse_two_bytes : parse [0xFF#8, 0xFF#8] = ⟨[], 0xFFFF#16, none, none, none⟩ := by decide

/-! ### Decoding: one word of every row, from the encodings of R60 and R72 -/

theorem test_word_crcInit : decodeTableWord 16 0b0001000000000000 = some .crcInit := by decide

theorem test_word_crcByte : decodeTableWord 16 0b0010000010100101 = some (.crcByte 0xA5#8) := by decide

theorem test_word_encWscOff : decodeTableWord 16 0b0011000011111111 = some (.encWscOff 0xFF#8) := by decide

theorem test_word_encWscOn : decodeTableWord 16 0b0011000100000001 = some (.encWscOn 0x01#8) := by decide

theorem test_word_rxClear : decodeTableWord 16 0b0100000000000000 = some .rxClear := by decide

theorem test_word_rxPush : decodeTableWord 16 0b0101000010001100 = some (.rxPush 0x8C#8) := by decide

theorem test_word_decResp : decodeTableWord 16 0b0110000000000000 = some .decResp := by decide

theorem test_word_frameWscOn : decodeTableWord 64 0x11050000FF008EAA = some (.frameWscOn 0x11#8 0x8E#8 0xAA#8) := by decide

theorem test_word_frameWscOff : decodeTableWord 64 0xF70500000000D95C = some (.frameWscOff 0xF7#8 0xD9#8 0x5C#8) := by decide

theorem test_word_op_zero : decodesTo (decodeCommand 0x0001#16) .noSuchOperation = true := by decide

theorem test_word_op_seven : decodesTo (decodeCommand 0x7000#16) .noSuchOperation = true := by decide

theorem test_word_z : decodesTo (decodeCommand 0x3E01#16) .zNotZero = true := by decide

theorem test_word_v : decodesTo (decodeCommand 0x5100#16) .valueBitSet = true := by decide

theorem test_word_b : decodesTo (decodeCommand 0x4001#16) .byteNotZero = true := by decide

theorem test_frame_crc : decodesTo (decodeFrame [0x01#8, 0x05#8, 0x00#8, 0x00#8, 0xFF#8, 0x00#8, 0xCA#8, 0x8D#8]) .frameCrc = true := by
  decide

theorem test_frame_coilAddress :
    decodesTo (decodeFrame [0x01#8, 0x05#8, 0x00#8, 0x01#8, 0xFF#8, 0x00#8, 0xDD#8, 0xFA#8]) .coilAddress = true := by decide

theorem test_frame_function :
    decodesTo (decodeFrame [0x01#8, 0x06#8, 0x00#8, 0x00#8, 0xFF#8, 0x00#8, 0x8C#8, 0x3A#8]) .functionCode = true := by decide

theorem test_frame_value :
    decodesTo (decodeFrame [0x01#8, 0x05#8, 0x00#8, 0x00#8, 0x00#8, 0xFF#8, 0x8C#8, 0x3A#8]) .valueField = true := by decide

theorem test_frame_length : decodesTo (decodeFrame [0x01#8, 0x05#8, 0xC0#8, 0x23#8]) .frameLength = true := by decide

/-! ### WellFormed: an ill-formed term for each check -/

theorem smoke_wf_on : (Instr.frameWscOn 0x01#8 0x8C#8 0x3A#8).wf = true := by decide

theorem smoke_ill_formed_on : (Instr.frameWscOn 0x01#8 0x3A#8 0x8C#8).wf = false := by decide

theorem smoke_wf_off : (Instr.frameWscOff 0x02#8 0xCD#8 0xF9#8).wf = true := by decide

theorem smoke_ill_formed_off : (Instr.frameWscOff 0x02#8 0xCD#8 0xF8#8).wf = false := by decide

/-! ### Single operations (section 5) -/

theorem test_crcInit_O2 : nextIs (exec .crcInit (received 0x3A8C#16 frameOn1)) (fun t => (t.acc, t.rxlen)) (0xFFFF#16, 8) = true := by
  decide

theorem test_crcByte_O3 : nextIs (exec (.crcByte 0x01#8) State.reset) State.acc 0x807E#16 = true := by decide

theorem test_encWscOff_O5 : nextIs (exec (.encWscOff 2#8) ((received 0x1234#16 [0x01#8, 0x05#8, 0x00#8]).setResult .tooShort))
    (fun t => (t.acc, t.txvalid, t.rxlen, t.result, t.txFrame)) (0xF9CD#16, true, 3, .tooShort, frameOff2) = true := by decide

theorem test_encWscOn : nextIs (exec (.encWscOn 1#8) State.reset) (fun t => (t.acc, t.txFrame)) (0x3A8C#16, frameOn1) = true := by decide

theorem test_rxClear_O6 : nextIs (exec .rxClear ((received 0xF9CD#16 frameOff2).setResult .crcMismatch))
    (fun t => (t.acc, t.rxlen, t.result)) (0xF9CD#16, 0, .none) = true := by decide

theorem test_rxPush_O7 : nextIs (exec (.rxPush 0x00#8) ((received 0xFFFF#16 frameOn1).setResult .ok))
    (fun t => (t.rxFrame, t.rxlen, t.result)) (frameOn1 ++ [0x00#8], 9, .none) = true := by decide

theorem test_rxPush_full_O12 : (match exec (.rxPush 0x00#8) (State.reset.setRxlen 256) with
    | .refused r => decide (r = .receiveBufferFull) | .next _ => false | .fault _ => false) = true := by decide

theorem test_decResp_O8 : nextIs (exec .decResp (received 0xABCD#16 [0x01#8, 0x05#8, 0x00#8]))
    (fun t => (t.acc, t.result, t.status)) (0xABCD#16, .tooShort, 0x04#8) = true := by decide

theorem test_decResp_O10 : nextIs (exec .decResp ((received 0xABCD#16 frameOff2).setTxvalid true))
    (fun t => (t.acc, t.result, t.status)) (0xF9CD#16, .ok, 0x03#8) = true := by decide

theorem test_frameWscOn : nextIs (exec (.frameWscOn 1#8 0x8C#8 0x3A#8) State.reset) (fun t => (t.acc, t.txFrame)) (0x3A8C#16, frameOn1) = true := by
  decide

theorem test_frameWscOff : nextIs (exec (.frameWscOff 2#8 0xCD#8 0xF9#8) State.reset) (fun t => (t.acc, t.txFrame)) (0xF9CD#16, frameOff2) = true := by
  decide

theorem test_parsed_P2 : stateP2.parsed = some ⟨[0x01#8, 0x05#8, 0x00#8, 0x00#8, 0xFF#8, 0x00#8], 0x3A8C#16, some 0x01#8, some 0x05#8,
    some [0x00#8, 0x00#8, 0xFF#8, 0x00#8]⟩ := by decide

theorem test_step_runs_fetch_word :
    nextIs (step (State.reset.withFetchWord 16 0x2001)) (fun t => (t.acc, t.port)) (0x807E#16, []) = true := by decide

theorem test_step_reset : nextIs (step (stateP2.setPort [.reset])) (fun t => (t.acc, t.txvalid, t.rxlen, t.status, t.epoch))
    (0xFFFF#16, false, 0, 0x00#8, 1) = true := by decide

theorem test_step_reserved_word : (match step (State.reset.withFetchWord 16 0x0000) with
    | .refused r => decide (r = .reservedCommandWord .noSuchOperation) | .next _ => false | .fault _ => false) = true := by decide

/-! ### Witnesses: states and operands that meet the hypotheses of each statement -/

theorem witness_BitStep_low : (0 : Nat) < 16 := by decide

theorem witness_BitStep_high : (15 : Nat) < 16 := by decide

theorem witness_CrcResidue_pair : crc16 ([] ++ [0xFF#8, 0xFF#8]) = 0#16 := by decide

theorem witness_CrcResidue_length : 2 ≤ [0xFF#8, 0xFF#8].length ∧ 2 ≤ frameOn1.length := by decide

theorem witness_CrcByte_values : (State.reset.setAcc 0xFFFF#16).acc = 0xFFFF#16 ∧ (State.reset.setAcc 0x0000#16).acc = 0x0000#16 ∧
    (State.reset.setAcc 0x807E#16).acc = 0x807E#16 := by decide

/-- Operations of the streaming class, one of each kind. -/
def streamOps : List Instr := [.crcByte 0x01#8, .rxClear, .rxPush 0xFF#8, .crcByte 0x05#8]

theorem witness_Streaming_class : ∀ i ∈ streamOps, isStreaming i = true := by decide

theorem witness_Streaming_fits : (State.reset.setRxlen 255).rxlen + (pushedBytes streamOps).length ≤ State.reset.cfg.rxCap := by decide

theorem witness_Streaming_completes : nextIs (execAll (.crcInit :: streamOps) State.reset) State.crcOut 0x23C0#16 = true := by decide

theorem witness_AccumulatorIsShared_least : (received 0#16 [0x01#8, 0x05#8, 0x00#8, 0x00#8]).cfg.minRespLen ≤ 4 ∧
    (received 0#16 [0x01#8, 0x05#8, 0x00#8, 0x00#8]).rxlen = 4 ∧ 4 ≤ State.reset.cfg.rxCap := by decide

theorem witness_AccumulatorIsShared_full : (State.reset.setRxlen 256).cfg.minRespLen ≤ (State.reset.setRxlen 256).rxlen ∧
    (State.reset.setRxlen 256).rxlen ≤ (State.reset.setRxlen 256).cfg.rxCap := by decide

theorem witness_RequestFrame_coil : (0x0001#16 : U16) ≠ 0#16 ∧ (0xFFFF#16 : U16) ≠ 0#16 := by decide

theorem witness_WireFrame_right : [0x8C#8, 0x3A#8] = [lo (crc16 [0x01#8, 0x05#8, 0x00#8, 0x00#8, 0xFF#8, 0x00#8]),
    hi (crc16 [0x01#8, 0x05#8, 0x00#8, 0x00#8, 0xFF#8, 0x00#8])] := by decide

theorem witness_WireFrame_right_off : [0xCD#8, 0xF9#8] = [lo (crc16 [0x02#8, 0x05#8, 0x00#8, 0x00#8, 0x00#8, 0x00#8]),
    hi (crc16 [0x02#8, 0x05#8, 0x00#8, 0x00#8, 0x00#8, 0x00#8])] := by decide

theorem witness_WireFrame_wrong : [0xCA#8, 0x8D#8] ≠ [lo (crc16 [0x01#8, 0x05#8, 0x00#8, 0x00#8, 0xFF#8, 0x00#8]),
    hi (crc16 [0x01#8, 0x05#8, 0x00#8, 0x00#8, 0xFF#8, 0x00#8])] := by decide

theorem witness_EncoderIgnoresHistory : (∃ t, exec (.encWscOn 1#8) State.reset = .next t) ∧ (∃ t, exec (.encWscOn 1#8) stateP2 = .next t) ∧
    (∃ t, exec (.frameWscOff 2#8 0xCD#8 0xF9#8) State.reset = .next t) ∧ (∃ t, exec (.frameWscOff 2#8 0xCD#8 0xF9#8) stateP2 = .next t) :=
  ⟨⟨_, rfl⟩, ⟨_, rfl⟩, ⟨_, rfl⟩, ⟨_, rfl⟩⟩

theorem witness_RxPush_empty : State.reset.rxlen < State.reset.cfg.rxCap := by decide

theorem witness_RxPush_last : (State.reset.setRxlen 255).rxlen < (State.reset.setRxlen 255).cfg.rxCap := by decide

theorem witness_RxPush_full : (State.reset.setRxlen 256).rxlen = (State.reset.setRxlen 256).cfg.rxCap := by decide

theorem witness_LengthOutOfRange : (State.reset.setRxlen 257).cfg.rxCap < (State.reset.setRxlen 257).rxlen := by decide

theorem witness_DecResp_short : (received 0#16 [0x01#8, 0x05#8, 0x00#8]).rxlen ≤ State.reset.cfg.rxCap ∧
    (received 0#16 [0x01#8, 0x05#8, 0x00#8]).rxlen < State.reset.cfg.minRespLen := by decide

theorem witness_DecResp_ok : (received 0#16 [0x01#8, 0x05#8, 0xC0#8, 0x23#8]).cfg.minRespLen ≤ 4 ∧
    crc16 ((List.range (4 - 2)).map ((received 0#16 [0x01#8, 0x05#8, 0xC0#8, 0x23#8]).byteAt .rx)) =
      (zext16 ((received 0#16 [0x01#8, 0x05#8, 0xC0#8, 0x23#8]).byteAt .rx 2) |||
        (zext16 ((received 0#16 [0x01#8, 0x05#8, 0xC0#8, 0x23#8]).byteAt .rx 3) <<< 8)) := by decide

theorem witness_DecResp_mismatch : (received 0#16 [0x01#8, 0x05#8, 0x00#8, 0x00#8]).cfg.minRespLen ≤ 4 ∧
    crc16 ((List.range (4 - 2)).map ((received 0#16 [0x01#8, 0x05#8, 0x00#8, 0x00#8]).byteAt .rx)) ≠
      (zext16 ((received 0#16 [0x01#8, 0x05#8, 0x00#8, 0x00#8]).byteAt .rx 2) |||
        (zext16 ((received 0#16 [0x01#8, 0x05#8, 0x00#8, 0x00#8]).byteAt .rx 3) <<< 8)) := by decide

theorem witness_DecResp_again : ∃ t, exec .decResp (received 0#16 frameOn1) = .next t := ⟨_, rfl⟩

theorem witness_DecodeResponse_short : [0x01#8, 0x05#8, 0x00#8].length < Config.defaultParams.minRespLen ∧
    [0xFF#8].length < params2.minRespLen := by decide

theorem witness_DecodeResponse_ok : params2.minRespLen ≤ ([] : List Byte).length + 2 ∧
    crc16 [] = (zext16 0xFF#8 ||| (zext16 0xFF#8 <<< 8)) := by decide

theorem witness_DecodeResponse_mismatch : params2.minRespLen ≤ ([] : List Byte).length + 2 ∧
    crc16 [] ≠ (zext16 0xFF#8 ||| (zext16 0xFE#8 <<< 8)) := by decide

theorem witness_Parsed_crc : crc16 [0x01#8, 0x05#8] = (zext16 0xC0#8 ||| (zext16 0x23#8 <<< 8)) := by decide

theorem witness_Parsed_short : [0x01#8, 0x05#8, 0x00#8].length < 4 := by decide

/-- Operations of the receiving class, one of each kind. -/
def receiveOps : List Instr := [.rxPush 0x01#8, .crcInit, .crcByte 0x07#8, .rxPush 0x05#8, .encWscOn 1#8, .rxPush 0xC0#8, .encWscOff 2#8, .rxPush 0x23#8]

theorem witness_Receive_class : ∀ i ∈ receiveOps, isReceiving i = true := by decide

theorem witness_Receive_fits : (pushedBytes receiveOps).length ≤ State.reset.cfg.rxCap ∧
    pushedBytes receiveOps = [0x01#8, 0x05#8, 0xC0#8, 0x23#8] := by decide

theorem witness_SingleByteError : 7 < frameOn1.length ∧ frameOn1[7]? ≠ some 0x3B#8 ∧
    ∃ r, decodeResponse Config.defaultParams frameOn1 = .ok r := ⟨by decide, by decide, _, rfl⟩

theorem witness_BlindSpot_swap : (∃ r, decodeResponse Config.defaultParams ([0x01#8, 0x05#8] ++ [0xC0#8, 0x23#8]) = .ok r) ∧
    (0xC0#8 : Byte) ≠ 0x23#8 := ⟨⟨_, rfl⟩, by decide⟩

theorem witness_BlindSpot_truncated : 3 < Config.defaultParams.minRespLen ∧ 1 < params2.minRespLen := by decide

theorem witness_BlindSpot_zeros : (∃ r, decodeResponse Config.defaultParams frameOn1 = .ok r) ∧ (0x01#8 : Byte) ≠ 0x00#8 :=
  ⟨⟨_, rfl⟩, by decide⟩

/-- `received 0 frameOn1` and a state that differs from it in everything but the valid bytes. -/
theorem witness_DecRespSees : (received 0#16 frameOn1).cfg = ((stateP2.setRxbuf (cells (frameOn1 ++ [0x77#8]))).setAcc 5#16).cfg ∧
    (received 0#16 frameOn1).rxlen = ((stateP2.setRxbuf (cells (frameOn1 ++ [0x77#8]))).setAcc 5#16).rxlen ∧
    (∀ k < 8, (received 0#16 frameOn1).byteAt .rx k = ((stateP2.setRxbuf (cells (frameOn1 ++ [0x77#8]))).setAcc 5#16).byteAt .rx k) ∧
    (∃ t, exec .decResp (received 0#16 frameOn1) = .next t) ∧
    (∃ t, exec .decResp ((stateP2.setRxbuf (cells (frameOn1 ++ [0x77#8]))).setAcc 5#16) = .next t) :=
  ⟨by decide, by decide, by decide, ⟨_, rfl⟩, ⟨_, rfl⟩⟩

/-- Every operation answers a next state from `stateP2`: the hypotheses of `ResultIsTheLastVerdict`, `TxvalidMeansFrame`,
`WhoWritesWhat` and `ExecKeepsModelFields`. -/
theorem witness_operations_complete : isOperation .crcInit = true ∧ isOperation (.crcByte 1#8) = true ∧
    isOperation (.encWscOff 2#8) = true ∧ isOperation (.encWscOn 1#8) = true ∧ isOperation .rxClear = true ∧
    isOperation (.rxPush 1#8) = true ∧ isOperation .decResp = true ∧
    (∃ t, exec .crcInit stateP2 = .next t) ∧ (∃ t, exec (.crcByte 1#8) stateP2 = .next t) ∧
    (∃ t, exec (.encWscOff 2#8) stateP2 = .next t) ∧ (∃ t, exec (.encWscOn 1#8) stateP2 = .next t) ∧
    (∃ t, exec .rxClear stateP2 = .next t) ∧ (∃ t, exec (.rxPush 1#8) stateP2 = .next t) ∧
    (∃ t, exec .decResp stateP2 = .next t) ∧ (∃ t, exec (.frameWscOn 1#8 0x8C#8 0x3A#8) stateP2 = .next t) :=
  ⟨rfl, rfl, rfl, rfl, rfl, rfl, rfl, ⟨_, rfl⟩, ⟨_, rfl⟩, ⟨_, rfl⟩, ⟨_, rfl⟩, ⟨_, rfl⟩, ⟨_, rfl⟩, ⟨_, rfl⟩, ⟨_, rfl⟩⟩

theorem witness_reset_event : ∃ t, step { stateP2 with port := .reset :: [] } = .next t := ⟨_, rfl⟩

theorem witness_Inv_with_frame_and_verdict : stateP2.Inv ∧ stateP2.txvalid = true := by decide

theorem witness_StepKeepsInvariant : (stateP2.withFetchWord 16 0x5000).Inv ∧ ∃ t, step (stateP2.withFetchWord 16 0x5000) = .next t :=
  ⟨by decide, _, rfl⟩

theorem witness_Admitted : (stateP2.withFetchWord 16 0x5000).Inv ∧ (stateP2.withFetchWord 16 0x5000).nextAdmitted = true ∧
    (stateP2.withFetchWord 64 0x01050000FF008C3A).nextAdmitted = true := by decide

theorem witness_DecodeEncode : isOperation (.encWscOn 0xFF#8) = true ∧ decode (.command 0x31FF#16) = .ok (.encWscOn 0xFF#8) ∧
    decode (.frame frameOff2) = .ok (.frameWscOff 0x02#8 0xCD#8 0xF9#8) := ⟨rfl, rfl, rfl⟩

theorem witness_Reserved : (0x0FFF#16 : BitVec 16).extractLsb' 12 4 = 0#4 ∧ 7 ≤ ((0x7000#16 : BitVec 16).extractLsb' 12 4).toNat ∧
    (0x2200#16 : BitVec 16).extractLsb' 9 3 ≠ 0#3 ∧
    ((0x2100#16 : BitVec 16).getLsbD 8 = true ∧ (0x2100#16 : BitVec 16).extractLsb' 12 4 ≠ 3#4) ∧
    ((0x1001#16 : BitVec 16).extractLsb' 0 8 ≠ 0#8 ∧ (0x1001#16 : BitVec 16).extractLsb' 12 4 = 1#4) := by decide

theorem witness_NonFrame : ∀ id v, encodeWriteSingleCoil id 0#16 v ≠ some [0x01#8] := by
  intro id v h
  have := congrArg (Option.map List.length) h
  simp [encodeWriteSingleCoil, Config.coilAddr, requestFrame, header, bigEndian, littleEndian] at this

theorem witness_StepRuns : decode (.command 0x2001#16) = .ok (.crcByte 0x01#8) ∧ State.reset.port = [] ∧
    decodeTableWord 16 0x2001 = some (.crcByte 0x01#8) := ⟨rfl, rfl, rfl⟩

theorem witness_Run : ∀ i ∈ [Instr.crcInit, .frameWscOn 0x01#8 0x8C#8 0x3A#8, .decResp], i.wf = true := by decide

theorem witness_InvalidBytes : stateP2.rxlen ≤ 8 ∧ stateP2.rxbuf.read 8 = none ∧
    (stateP2.setRxlen 0).rxlen ≤ 7 ∧ (stateP2.setRxlen 0).rxbuf.read 7 = some 0x3A#8 ∧ State.reset.txbuf.read 0 = none := by decide

theorem witness_Pseudo : frameOn1.length ≤ State.reset.cfg.rxCap := by decide

end Sys2Proof.Tests
end

/-! ## The state: who writes what (10_state.md R24, R27, R32, R33)

The inversion of an operation as field updates, the laws of the encoder's and the decoder's next state, and from them the
statements about the state elements. -/

namespace Sys2Proof.Machine

/-! ### The verdict of `decodeResponse` -/

theorem verdictOf_ne_none (r : Except FrameError ParsedResponse) : verdictOf r ≠ .none := by
  cases r with
  | ok _ => exact Verdict.noConfusion
  | error e => cases e <;> exact Verdict.noConfusion

theorem verdictOf_eq_ok_iff {r : Except FrameError ParsedResponse} : verdictOf r = .ok ↔ ∃ p, r = .ok p := by
  cases r with
  | ok _ => simp [verdictOf]
  | error e => cases e <;> simp [verdictOf, FrameError.verdict]

/-- The verdict names its frame error. -/
theorem verdictOf_eq_verdict_iff {r : Except FrameError ParsedResponse} {e : FrameError} :
    verdictOf r = e.verdict ↔ r = .error e := by
  cases r with
  | ok _ => cases e <;> simp [verdictOf, FrameError.verdict]
  | error d => cases d <;> cases e <;> simp [verdictOf, FrameError.verdict]

/-- The length test alone decides `TooShort` (R130). -/
theorem decodeResponse_eq_tooShort_iff {p : Params} {f : List Byte} :
    decodeResponse p f = .error .tooShort ↔ f.length < p.minRespLen := by
  unfold decodeResponse
  split
  · next hlt => exact iff_of_true rfl hlt
  · next hge => split <;> exact iff_of_false (by simp) hge

/-! ### What each operation leaves -/

theorem requestFrame_take_header (id : Byte) (v : Bool) : (requestFrame id v).take 6 = header id v :=
  List.take_left' (length_header id v)

theorem requestFrame_drop_header (id : Byte) (v : Bool) :
    (requestFrame id v).drop 6 = littleEndian (crc16 (header id v)) :=
  List.drop_left' (length_header id v)

section Encoder
variable (s : State) (id : Byte) (v : Bool)

@[simp] theorem encodeInto_acc : (encodeInto id v s).acc = crc16 (header id v) := by simp [encodeInto_eq]
@[simp] theorem encodeInto_txvalid : (encodeInto id v s).txvalid = true := by simp [encodeInto_eq]
@[simp] theorem encodeInto_rxbuf : (encodeInto id v s).rxbuf = s.rxbuf := by simp [encodeInto_eq]
@[simp] theorem encodeInto_rxlen : (encodeInto id v s).rxlen = s.rxlen := by simp [encodeInto_eq]
@[simp] theorem encodeInto_result : (encodeInto id v s).result = s.result := by simp [encodeInto_eq]
@[simp] theorem encodeInto_cfg : (encodeInto id v s).cfg = s.cfg := by simp [encodeInto_eq]
@[simp] theorem encodeInto_epoch : (encodeInto id v s).epoch = s.epoch := by simp [encodeInto_eq]
@[simp] theorem encodeInto_port : (encodeInto id v s).port = s.port := by simp [encodeInto_eq]

/-- `tx_frame` after `ENC.WSC` is the request frame (R113). -/
@[simp] theorem encodeInto_txFrame : (encodeInto id v s).txFrame = requestFrame id v := by
  apply List.ext_getElem (by simp [State.txFrame, Config.frameLen])
  intro k hk hk'
  have hbyte : (encodeInto id v s).byteAt .tx k = (requestFrame id v)[k] := by
    rw [encodeInto_byteAt s id v hk', List.getD_eq_getElem]
  simpa [State.txFrame, State.readBytes] using hbyte

/-- `ENC.WSC` writes no byte of `TXBUF` beyond the frame (R113). -/
theorem encodeInto_byteAt_tx_beyond {k : Nat} (h : 8 ≤ k) : (encodeInto id v s).byteAt .tx k = s.byteAt .tx k := by
  rw [State.byteAt_tx, State.byteAt_tx, encodeInto_read, if_neg (by omega), encodeInto_epoch]

end Encoder

/-- The accumulator a `DEC.RESP` leaves: as it was when the length test fails, else the CRC of the body (R129). -/
def State.decRespAcc (s : State) : U16 :=
  if s.rxlen < s.cfg.minRespLen then s.acc else crc16 (s.rxFrame.take (s.rxlen - 2))

/-- A `DEC.RESP` that completes writes `ACC` and the verdict of `decodeResponse` on the valid bytes, and nothing else
(R129, R131). -/
theorem execDecResp_next {s t : State} (h : execDecResp s = .next t) :
    t = (s.setAcc s.decRespAcc).setResult (verdictOf (decodeResponse s.cfg s.rxFrame)) := by
  rcases execDecResp_cases h with ⟨hshort, rfl⟩ | ⟨hlen, -, hcrc⟩
  · have hacc : s.decRespAcc = s.acc := if_pos hshort
    have hdec : decodeResponse s.cfg s.rxFrame = .error .tooShort :=
      decodeResponse_eq_tooShort_iff.mpr (s.length_rxFrame ▸ hshort)
    rw [hacc, hdec]; rfl
  · have hnot : ¬ s.rxlen < s.cfg.minRespLen := Nat.not_lt.mpr hlen
    have hacc : s.decRespAcc = crc16 (s.readBytes .rx (s.rxlen - 2)) := by
      rw [State.decRespAcc, if_neg hnot, State.rxFrame, State.take_readBytes _ _ _ _ (Nat.sub_le _ _)]
    have hdec : decodeResponse s.cfg s.rxFrame =
        if crc16 (s.readBytes .rx (s.rxlen - 2)) = u16 (s.byteAt .rx (s.rxlen - 2)) (s.byteAt .rx (s.rxlen - 1))
        then .ok (parse s.rxFrame) else .error .crcMismatch := by
      rw [decodeResponse, State.length_rxFrame, if_neg hnot, State.frameBody_rxFrame,
        State.frameCrc_rxFrame s (Nat.le_trans s.cfg.minRespLen_ge hlen)]
    rcases hcrc with ⟨heq, rfl⟩ | ⟨hne, rfl⟩
    · rw [hacc, hdec, if_pos heq]; rfl
    · rw [hacc, hdec, if_neg hne]; rfl

/-- The inversion of the six operations of R70: the next state as field updates of the state before. -/
theorem exec_operation_cases {i : Instr} {s t : State} (hop : isOperation i = true) (h : exec i s = .next t) :
    (i = .crcInit ∧ t = s.setAcc Config.crcInit) ∨
    (∃ b, i = .crcByte b ∧ t = s.setAcc (crc16Step s.acc b)) ∨
    (∃ id v, i = encWsc id v ∧ t = encodeInto id v s) ∨
    (i = .rxClear ∧ t = (s.setRxlen 0).setResult .none) ∨
    (∃ b, i = .rxPush b ∧ t = ((s.setByte .rx s.rxlen b).setRxlen (s.rxlen + 1)).setResult .none) ∨
    (i = .decResp ∧ t = (s.setAcc s.decRespAcc).setResult (verdictOf (decodeResponse s.cfg s.rxFrame))) := by
  cases i with
  | crcInit => cases h; exact .inl ⟨rfl, rfl⟩
  | crcByte b => cases h; exact .inr (.inl ⟨b, rfl, rfl⟩)
  | encWscOff id => cases h; exact .inr (.inr (.inl ⟨id, false, rfl, rfl⟩))
  | encWscOn id => cases h; exact .inr (.inr (.inl ⟨id, true, rfl, rfl⟩))
  | rxClear => cases h; exact .inr (.inr (.inr (.inl ⟨rfl, rfl⟩)))
  | rxPush b => exact .inr (.inr (.inr (.inr (.inl ⟨b, rfl, (execRxPush_cases h).2⟩))))
  | decResp => exact .inr (.inr (.inr (.inr (.inr ⟨rfl, execDecResp_next h⟩))))
  | frameWscOn _ _ _ => cases hop
  | frameWscOff _ _ _ => cases hop

/-- A step on the reset event carries it out (R170). -/
theorem step_reset (s : State) (rest : List HostEvent) :
    step { s with port := .reset :: rest } = .next (resetEvent (s.setPort rest)) := rfl

/-- `STATUS` reads 0 when no frame is held and no verdict stands (R28). -/
theorem State.status_eq_zero {s : State} (hv : s.txvalid = false) (hr : s.result = .none) : s.status = 0x00#8 := by
  rw [State.status, hv, hr]; decide

/-! ### The statements of 10_state.md -/

/-- Settles O31: the step on a reset event is `resetEvent`, whose fields are the values of R33. -/
theorem resetValues : Obligations.ResetValues :=
  ⟨fun s rest => ⟨_, step_reset s rest, rfl, rfl, rfl, rfl, State.status_eq_zero rfl rfl⟩,
    rfl, rfl, rfl, rfl, State.status_eq_zero rfl rfl⟩

/-- Settles O27, operation by operation: `DEC.RESP` leaves the verdict of `decodeResponse`, the two writers of the receive
buffer leave `NONE`, the others leave `RESULT` alone. -/
theorem resultIsTheLastVerdict : Obligations.ResultIsTheLastVerdict := by
  refine ⟨fun i s t hop h => ?_, fun s t rest h => ?_, rfl, rfl, rfl, rfl⟩
  · rcases exec_operation_cases hop h with
      ⟨rfl, rfl⟩ | ⟨b, rfl, rfl⟩ | ⟨id, v, rfl, rfl⟩ | ⟨rfl, rfl⟩ | ⟨b, rfl, rfl⟩ | ⟨rfl, rfl⟩
    · exact .inr (.inr ⟨.inl rfl, rfl⟩)
    · exact .inr (.inr ⟨.inr (.inl ⟨b, rfl⟩), rfl⟩)
    · have hrow : encWsc id v = .encWscOff id ∨ encWsc id v = .encWscOn id := by cases v <;> simp [encWsc]
      exact .inr (.inr ⟨.inr (.inr ⟨id, hrow⟩), encodeInto_result s id v⟩)
    · exact .inr (.inl ⟨.inl rfl, rfl⟩)
    · exact .inr (.inl ⟨.inr ⟨b, rfl⟩, rfl⟩)
    · exact .inl ⟨rfl, verdictOf_ne_none _, verdictOf_eq_ok_iff, verdictOf_eq_verdict_iff (e := .tooShort),
        verdictOf_eq_verdict_iff (e := .crcMismatch)⟩
  · rw [step_reset] at h
    cases h; rfl

/-- `TXVALID` after an operation: it becomes 1 at an `ENC.WSC` and otherwise stays (R24). -/
theorem exec_txvalid_iff {i : Instr} {s t : State} (hop : isOperation i = true) (h : exec i s = .next t) :
    t.txvalid = true ↔ s.txvalid = true ∨ ∃ id, i = .encWscOff id ∨ i = .encWscOn id := by
  rcases exec_operation_cases hop h with
    ⟨rfl, rfl⟩ | ⟨b, rfl, rfl⟩ | ⟨id, v, rfl, rfl⟩ | ⟨rfl, rfl⟩ | ⟨b, rfl, rfl⟩ | ⟨rfl, rfl⟩
  case inr.inr.inl => cases v <;> simp [encWsc]
  all_goals simp [State.setByte_rx]

/-- Settles O28: `exec_txvalid_iff` for the operations, and the invariant's `TxOk` for the promise on `TXBUF`, since a request
frame is a header and the header's CRC. -/
theorem txvalidMeansFrame : Obligations.TxvalidMeansFrame := by
  refine ⟨rfl, fun s t rest h => ?_, fun i s t => exec_txvalid_iff, fun s hinv hv => ?_⟩
  · rw [step_reset] at h
    cases h; rfl
  · obtain ⟨-, -, htx, -⟩ := hinv
    obtain ⟨-, hframe⟩ := htx hv
    rw [hframe, requestFrame_drop_header, requestFrame_take_header]
    rfl

/-- What `DEC.RESP` puts into `RESULT`, by its length test (R129). -/
theorem verdictOf_decodeResponse_of_length (p : Params) (f : List Byte) :
    if f.length < p.minRespLen then verdictOf (decodeResponse p f) = .tooShort
    else verdictOf (decodeResponse p f) = .ok ∨ verdictOf (decodeResponse p f) = .crcMismatch := by
  have hshort : verdictOf (decodeResponse p f) = .tooShort ↔ f.length < p.minRespLen :=
    (verdictOf_eq_verdict_iff (e := .tooShort)).trans decodeResponse_eq_tooShort_iff
  split
  · next hlt => exact hshort.mpr hlt
  · next hge =>
    cases hv : verdictOf (decodeResponse p f) with
    | none => exact absurd hv (verdictOf_ne_none _)
    | ok => exact .inl rfl
    | tooShort => exact absurd (hshort.mp hv) hge
    | crcMismatch => exact .inr rfl

/-- Settles O29: each row of the table is read off the field updates of its operation; an element a row does not list is not
among them. -/
theorem whoWritesWhat : Obligations.WhoWritesWhat := by
  refine ⟨fun i s t hop h => ?_, fun s rest => ⟨_, step_reset s rest, rfl, rfl, rfl, rfl⟩⟩
  rcases exec_operation_cases hop h with
    ⟨rfl, rfl⟩ | ⟨b, rfl, rfl⟩ | ⟨id, v, rfl, rfl⟩ | ⟨rfl, rfl⟩ | ⟨b, rfl, rfl⟩ | ⟨rfl, rfl⟩
  · exact ⟨rfl, rfl, rfl, rfl, rfl, rfl⟩
  · exact ⟨rfl, rfl, rfl, rfl, rfl, rfl⟩
  · have hbeyond : ∀ k, 8 ≤ k → (encodeInto id v s).byteAt .tx k = s.byteAt .tx k :=
      fun _ => encodeInto_byteAt_tx_beyond s id v
    cases v <;> simpa [encWsc] using hbeyond
  · exact ⟨rfl, rfl, rfl, rfl, rfl, rfl⟩
  · have hbyte (k : Nat) := s.byteAt_append_rx .rx k b
    exact ⟨rfl, rfl, rfl, ⟨by simp [hbyte], fun k hk => by simp [hbyte, hk]⟩, rfl, rfl⟩
  · have hverdict := verdictOf_decodeResponse_of_length s.cfg s.rxFrame
    rw [State.length_rxFrame] at hverdict
    exact ⟨rfl, rfl, rfl, rfl, rfl, hverdict⟩

end Sys2Proof.Machine

/-! ## Command words (30_encoding.md R71 to R76)

The bits of the word the encoder composes, the decoder on them, and from both the statements about the command-word rows and
the pseudo-instructions. -/

namespace Sys2Proof.Machine

/-! ### The bits of a command word -/

/-- `OP[15:12] Z[11:9] V[8] B[7:0]`, bit by bit (R71). -/
theorem getLsbD_commandWord (op : BitVec 16) (v : Bool) (b : Byte) {i : Nat} (hi : i < 16) :
    (commandWord op v b).getLsbD i =
      if i < 8 then b.getLsbD i else if i < 12 then v && decide (i = 8) else op.getLsbD (i - 12) := by
  have hv : ((if v then 1#16 else 0#16) : BitVec 16).getLsbD (i - 8) = (v && decide (i - 8 = 0)) := by
    cases v <;> simp
  simp only [commandWord, zext16, BitVec.getLsbD_or, BitVec.getLsbD_shiftLeft, BitVec.getLsbD_setWidth, hv, hi,
    decide_true, Bool.true_and]
  by_cases h8 : i < 8
  · have h12 : i < 12 := by omega
    simp [h8, h12]
  · have hb : b.getLsbD i = false := BitVec.getLsbD_of_ge b i (by omega)
    by_cases h12 : i < 12
    · have he : (i - 8 = 0) ↔ i = 8 := by omega
      simp [h8, h12, hb, he]
    · have he : i - 8 ≠ 0 := by omega
      simp [h8, h12, hb, he]

theorem getLsbD_mask_high {i : Nat} (hi : i < 16) : (0xFF00#16).getLsbD i = decide (8 ≤ i) := by
  revert i; decide

section Fields
variable (op : BitVec 16) (v : Bool) (b : Byte)

theorem commandWord_op : (commandWord op v b).extractLsb' 12 4 = op.setWidth 4 := by
  apply BitVec.eq_of_getLsbD_eq
  intro i hi
  rw [BitVec.getLsbD_extractLsb', getLsbD_commandWord _ _ _ (by omega), if_neg (by omega), if_neg (by omega)]
  simp [hi]

theorem commandWord_z : (commandWord op v b).extractLsb' 9 3 = 0#3 := by
  apply BitVec.eq_of_getLsbD_eq
  intro i hi
  rw [BitVec.getLsbD_extractLsb', getLsbD_commandWord _ _ _ (by omega), if_neg (by omega), if_pos (by omega)]
  have h8 : 9 + i ≠ 8 := by omega
  simp [h8]

theorem commandWord_v : (commandWord op v b).getLsbD 8 = v := by
  rw [getLsbD_commandWord _ _ _ (by decide)]; simp

theorem commandWord_b : (commandWord op v b).extractLsb' 0 8 = b := by
  apply BitVec.eq_of_getLsbD_eq
  intro i hi
  rw [BitVec.getLsbD_extractLsb', getLsbD_commandWord _ _ _ (by omega), if_pos (by omega)]
  simp [hi]

/-- The bits above the byte operand. -/
theorem commandWord_and_high : commandWord op v b &&& 0xFF00#16 = commandWord op v 0 := by
  apply BitVec.eq_of_getLsbD_eq
  intro i hi
  rw [BitVec.getLsbD_and, getLsbD_mask_high hi, getLsbD_commandWord _ _ _ hi, getLsbD_commandWord _ _ _ hi]
  by_cases h8 : i < 8
  · simp [h8]
  · simp [h8, Nat.not_lt.mp h8]

theorem commandWord_or_byte : commandWord op v 0 ||| zext16 b = commandWord op v b := by
  simp [commandWord, zext16]

end Fields

/-- A word is its upper byte in place and its low byte. -/
theorem and_high_or_byte (cmd : BitVec 16) : (cmd &&& 0xFF00#16) ||| zext16 (cmd.extractLsb' 0 8) = cmd := by
  apply BitVec.eq_of_getLsbD_eq
  intro i hi
  rw [BitVec.getLsbD_or, BitVec.getLsbD_and, getLsbD_mask_high hi]
  by_cases h8 : i < 8
  · simp [zext16, hi, h8]
  · simp [zext16, Nat.not_lt.mp h8]

/-- The word of given operands, told by `mask` and `match` (R72). -/
theorem commandWord_eq_iff {op : BitVec 16} {v : Bool} {b : Byte} {cmd : BitVec 16} :
    commandWord op v b = cmd ↔ cmd &&& 0xFF00#16 = commandWord op v 0 ∧ b = cmd.extractLsb' 0 8 := by
  constructor
  · rintro rfl
    exact ⟨commandWord_and_high op v b, (commandWord_b op v b).symm⟩
  · rintro ⟨hhigh, rfl⟩
    rw [← commandWord_or_byte, ← hhigh, and_high_or_byte]

/-- A word with `Z = 000` is composed of its fields (R71, R76). -/
theorem commandWord_fields {cmd : BitVec 16} (hz : cmd.extractLsb' 9 3 = 0#3) :
    commandWord ((cmd.extractLsb' 12 4).setWidth 16) (cmd.getLsbD 8) (cmd.extractLsb' 0 8) = cmd := by
  apply BitVec.eq_of_getLsbD_eq
  intro i hi
  rw [getLsbD_commandWord _ _ _ hi]
  split
  · next hbyte => simp [hbyte]
  · split
    · next hmid =>
      by_cases h8 : i = 8
      · subst h8; simp
      · have hbit : cmd.getLsbD i = false := by
          have h := congrArg (·.getLsbD (i - 9)) hz
          have hwidth : i - 9 < 3 := by omega
          have hsum : 9 + (i - 9) = i := by omega
          simpa [hwidth, hsum] using h
        simp [h8, hbit]
    · have hwidth : i - 12 < 4 := by omega
      have hwidth' : i - 12 < 16 := by omega
      have hsum : 12 + (i - 12) = i := by omega
      simp [hwidth, hwidth', hsum]

/-! ### The decoder on a command word -/

/-- Decoding a composed word reads its fields back (R76). -/
theorem decode_commandWord (op : BitVec 16) (v : Bool) (b : Byte) :
    decode (.command (commandWord op v b)) = decodeOp (op.setWidth 4).toNat v b := by
  rw [decode, decodeCommand, if_pos (commandWord_z op v b), commandWord_op, commandWord_v, commandWord_b]

theorem decodeNoOperand_cases {v : Bool} {b : Byte} {i j : Instr} (h : decodeNoOperand v b i = .ok j) :
    v = false ∧ b = 0#8 ∧ j = i := by
  unfold decodeNoOperand at h
  split at h
  · cases h
  · next hv =>
    split at h
    · next hb => cases h; exact ⟨Bool.eq_false_of_not_eq_true hv, hb, rfl⟩
    · cases h

theorem decodeByteOperand_cases {v : Bool} {i j : Instr} (h : decodeByteOperand v i = .ok j) : v = false ∧ j = i := by
  unfold decodeByteOperand at h
  split at h
  · cases h
  · next hv => cases h; exact ⟨Bool.eq_false_of_not_eq_true hv, rfl⟩

/-- What an operation code with its operands decodes to is an operation, and encodes back to them (R72, R76). -/
theorem encode_of_decodeOp {op : Nat} {v : Bool} {b : Byte} {i : Instr} (h : decodeOp op v b = .ok i) :
    encode i = .command (commandWord (BitVec.ofNat 16 op) v b) ∧ isOperation i = true := by
  unfold decodeOp at h
  split at h
  · obtain ⟨rfl, rfl, rfl⟩ := decodeNoOperand_cases h; exact ⟨rfl, rfl⟩
  · obtain ⟨rfl, rfl⟩ := decodeByteOperand_cases h; exact ⟨rfl, rfl⟩
  · cases v <;> cases h <;> exact ⟨rfl, rfl⟩
  · obtain ⟨rfl, rfl, rfl⟩ := decodeNoOperand_cases h; exact ⟨rfl, rfl⟩
  · obtain ⟨rfl, rfl⟩ := decodeByteOperand_cases h; exact ⟨rfl, rfl⟩
  · obtain ⟨rfl, rfl, rfl⟩ := decodeNoOperand_cases h; exact ⟨rfl, rfl⟩
  · cases h

/-- A valid command word is the encoding of the operation it decodes to (R76). -/
theorem encode_of_decode_command {cmd : BitVec 16} {i : Instr} (h : decode (.command cmd) = .ok i) :
    encode i = .command cmd ∧ isOperation i = true := by
  rw [decode, decodeCommand] at h
  split at h
  · next hz =>
    have henc := encode_of_decodeOp h
    rwa [BitVec.ofNat_toNat, commandWord_fields hz] at henc
  · cases h

/-- Every operation is decoded from its command word (R76). -/
theorem decode_encode_operation {i : Instr} (hop : isOperation i = true) : decode (encode i) = .ok i := by
  cases i with
  | crcInit => exact decode_commandWord 1 false 0
  | crcByte b => exact decode_commandWord 2 false b
  | encWscOff id => exact decode_commandWord 3 false id
  | encWscOn id => exact decode_commandWord 3 true id
  | rxClear => exact decode_commandWord 4 false 0
  | rxPush b => exact decode_commandWord 5 false b
  | decResp => exact decode_commandWord 6 false 0
  | frameWscOn _ _ _ => cases hop
  | frameWscOff _ _ _ => cases hop

/-- Settles O33: `decode_commandWord` at each operation's code, and back by `commandWord_fields`, which rebuilds a word from
the fields the decoder reads. -/
theorem commandDecodeEncodeInverse : Obligations.CommandDecodeEncodeInverse :=
  ⟨fun _ => decode_encode_operation, fun _ _ => encode_of_decode_command⟩

/-! ### The rows by mask and match -/

/-- The decoder answers an operation on its own command word and on no other (R76). -/
theorem decode_command_eq_ok_iff {cmd : BitVec 16} {i : Instr} (hop : isOperation i = true) :
    decode (.command cmd) = .ok i ↔ encode i = .command cmd :=
  ⟨fun h => (encode_of_decode_command h).1, fun h => h ▸ decode_encode_operation hop⟩

/-- A row with a byte operand: `mask` covers `OP`, `Z` and `V` (R72). -/
theorem decode_byteRow_iff {cmd : BitVec 16} {i : Instr} (op : BitVec 16) (v : Bool) (b : Byte)
    (henc : encode i = .command (commandWord op v b)) (hop : isOperation i = true) :
    decode (.command cmd) = .ok i ↔ cmd &&& 0xFF00#16 = commandWord op v 0 ∧ b = cmd.extractLsb' 0 8 := by
  rw [decode_command_eq_ok_iff hop, henc, PortWord.command.injEq, commandWord_eq_iff]

/-- A row without operands: `mask` covers the whole word (R72). -/
theorem decode_fullRow_iff {cmd w : BitVec 16} {i : Instr} (henc : encode i = .command w) (hop : isOperation i = true) :
    decode (.command cmd) = .ok i ↔ cmd &&& 0xFFFF#16 = w := by
  have hmask : cmd &&& 0xFFFF#16 = cmd := BitVec.and_allOnes
  rw [decode_command_eq_ok_iff hop, henc, PortWord.command.injEq, hmask, eq_comm]

/-- A decoder refuses exactly where it answers nothing. -/
theorem exists_error_iff {ε α : Type} {r : Except ε α} : (∃ e, r = .error e) ↔ ∀ a, r ≠ .ok a := by
  cases r <;> simp

/-- Settles O35: each row by `decode_fullRow_iff` or `decode_byteRow_iff`, and a word is refused exactly when no row's
instruction is decoded from it. -/
theorem commandWordRows : Obligations.CommandWordRows := by
  intro cmd
  have hinit : decode (.command cmd) = .ok .crcInit ↔ cmd &&& 0xFFFF#16 = 0x1000#16 := decode_fullRow_iff rfl rfl
  have hbyte (b : Byte) : decode (.command cmd) = .ok (.crcByte b) ↔
      cmd &&& 0xFF00#16 = 0x2000#16 ∧ b = cmd.extractLsb' 0 8 := decode_byteRow_iff 2 false b rfl rfl
  have hoff (b : Byte) : decode (.command cmd) = .ok (.encWscOff b) ↔
      cmd &&& 0xFF00#16 = 0x3000#16 ∧ b = cmd.extractLsb' 0 8 := decode_byteRow_iff 3 false b rfl rfl
  have hon (b : Byte) : decode (.command cmd) = .ok (.encWscOn b) ↔
      cmd &&& 0xFF00#16 = 0x3100#16 ∧ b = cmd.extractLsb' 0 8 := decode_byteRow_iff 3 true b rfl rfl
  have hclear : decode (.command cmd) = .ok .rxClear ↔ cmd &&& 0xFFFF#16 = 0x4000#16 := decode_fullRow_iff rfl rfl
  have hpush (b : Byte) : decode (.command cmd) = .ok (.rxPush b) ↔
      cmd &&& 0xFF00#16 = 0x5000#16 ∧ b = cmd.extractLsb' 0 8 := decode_byteRow_iff 5 false b rfl rfl
  have hresp : decode (.command cmd) = .ok .decResp ↔ cmd &&& 0xFFFF#16 = 0x6000#16 := decode_fullRow_iff rfl rfl
  refine ⟨hinit, hbyte, hoff, hon, hclear, hpush, hresp, exists_error_iff.trans ⟨fun hnone => ?_, fun hrows i hi => ?_⟩⟩
  · exact ⟨fun h => hnone _ (hinit.mpr h), fun h => hnone _ ((hbyte _).mpr ⟨h, rfl⟩),
      fun h => hnone _ ((hoff _).mpr ⟨h, rfl⟩), fun h => hnone _ ((hon _).mpr ⟨h, rfl⟩), fun h => hnone _ (hclear.mpr h),
      fun h => hnone _ ((hpush _).mpr ⟨h, rfl⟩), fun h => hnone _ (hresp.mpr h)⟩
  · obtain ⟨ninit, nbyte, noff, non, nclear, npush, nresp⟩ := hrows
    cases i with
    | crcInit => exact ninit (hinit.mp hi)
    | crcByte b => exact nbyte ((hbyte b).mp hi).1
    | encWscOff id => exact noff ((hoff id).mp hi).1
    | encWscOn id => exact non ((hon id).mp hi).1
    | rxClear => exact nclear (hclear.mp hi)
    | rxPush b => exact npush ((hpush b).mp hi).1
    | decResp => exact nresp (hresp.mp hi)
    | frameWscOn _ _ _ => cases (encode_of_decode_command hi).2
    | frameWscOff _ _ _ => cases (encode_of_decode_command hi).2

/-! ### Sequences of operations -/

theorem execAll_cons {i : Instr} {s t : State} (is : List Instr) (h : exec i s = .next t) :
    execAll (i :: is) s = execAll is t := by
  rw [execAll, h]

@[simp] theorem execAll_singleton (i : Instr) (s : State) : execAll [i] s = exec i s := by
  rw [execAll]; cases exec i s <;> rfl

theorem execAll_append {is : List Instr} {s t : State} (js : List Instr) (h : execAll is s = .next t) :
    execAll (is ++ js) s = execAll js t := by
  induction is generalizing s with
  | nil => cases h; rfl
  | cons i is ih =>
    rw [execAll] at h
    split at h
    · next u hu => rw [List.cons_append, execAll_cons _ hu, ih h]
    · cases h
    · cases h

/-- `CRC.BYTE` of each byte in turn runs the engine over the bytes (R99). -/
theorem execAll_crcByte (bytes : List Byte) (s : State) :
    execAll (bytes.map .crcByte) s = .next (bytes.foldl State.feed s) := by
  induction bytes generalizing s with
  | nil => rfl
  | cons b bytes ih => exact ih (s.feed b)

/-- `RX.PUSH` below the capacity appends its byte to the inbound frame (R127). -/
theorem exec_rxPush_appends {s : State} (b : Byte) (hroom : s.rxlen < s.cfg.rxCap) :
    ∃ t, exec (.rxPush b) s = .next t ∧ t.cfg = s.cfg ∧ t.rxFrame = s.rxFrame ++ [b] := by
  refine ⟨_, if_pos hroom, rfl, ?_⟩
  have hbyte (k : Nat) := s.byteAt_append_rx .rx k b
  have hframe : ((s.setByte .rx s.rxlen b).setRxlen (s.rxlen + 1)).readBytes .rx (s.rxlen + 1) = s.rxFrame ++ [b] := by
    rw [State.readBytes_succ, hbyte, if_pos ⟨rfl, rfl⟩, State.rxFrame, State.readBytes_congr]
    intro k hk
    rw [hbyte, if_neg fun h => hk.ne h.2]
  exact hframe

/-- Pushes that fit append their bytes to the inbound frame, in order (R127). -/
theorem execAll_rxPush (bytes : List Byte) {s : State} (hroom : s.rxlen + bytes.length ≤ s.cfg.rxCap) :
    ∃ t, execAll (bytes.map .rxPush) s = .next t ∧ t.cfg = s.cfg ∧ t.rxFrame = s.rxFrame ++ bytes := by
  induction bytes generalizing s with
  | nil => exact ⟨s, rfl, rfl, (List.append_nil _).symm⟩
  | cons b bytes ih =>
    rw [List.length_cons] at hroom
    obtain ⟨t, hexec, hcfg, hframe⟩ := exec_rxPush_appends (s := s) b (by omega)
    have hlen : t.rxlen = s.rxlen + 1 := by
      rw [← t.length_rxFrame, hframe, List.length_append, s.length_rxFrame, List.length_singleton]
    obtain ⟨u, hall, hcfg', hframe'⟩ := ih (s := t) (by rw [hlen, hcfg]; omega)
    refine ⟨u, (execAll_cons _ hexec).trans hall, hcfg'.trans hcfg, ?_⟩
    rw [hframe', hframe, List.append_assoc, List.singleton_append]

/-- `DEC.RESP` completes whenever `RXLEN` is in its range (R26, R129). -/
theorem exec_decResp_eq {s : State} (h : s.rxlen ≤ s.cfg.rxCap) :
    exec .decResp s = .next ((s.setAcc s.decRespAcc).setResult (verdictOf (decodeResponse s.cfg s.rxFrame))) := by
  have hcompletes : ∃ t, execDecResp s = .next t := by
    unfold execDecResp
    split
    · exact ⟨_, rfl⟩
    · rw [if_neg (by omega)]
      dsimp only
      split <;> exact ⟨_, rfl⟩
  obtain ⟨t, ht⟩ := hcompletes
  exact execDecResp_next ht ▸ ht

/-- What `decodeResponse` accepts it answers by `parse` (R133). -/
theorem eq_parse_of_decodeResponse {p : Params} {f : List Byte} {r : ParsedResponse} (h : decodeResponse p f = .ok r) :
    r = parse f := by
  unfold decodeResponse at h
  split at h
  · cases h
  · split at h
    · cases h; rfl
    · cases h

/-- While `RESULT` is the verdict on the inbound frame, `parsed` is the value of `decodeResponse` on it (R29). -/
theorem State.parsed_of_result {s : State} {p : Params} (h : s.result = verdictOf (decodeResponse p s.rxFrame)) :
    s.parsed = (decodeResponse p s.rxFrame).toOption := by
  unfold State.parsed
  cases hd : decodeResponse p s.rxFrame with
  | ok r => rw [h, hd, eq_parse_of_decodeResponse hd]; rfl
  | error e => rw [h, hd]; cases e <;> rfl

/-! ### The pseudo-instructions -/

/-- The expansion of `crc16` leaves its value in `ACC` (R75). -/
theorem execAll_expandCrc16 (bytes : List Byte) (s : State) :
    execAll (expandCrc16 bytes) s = .next (s.runEngine bytes) :=
  execAll_crcByte bytes (s.setAcc Config.crcInit)

/-- The expansion of `encodeWriteSingleCoil` is the one encoder call (R75). -/
theorem execAll_expandEncodeWriteSingleCoil (id : Byte) (v : Bool) (s : State) :
    execAll (expandEncodeWriteSingleCoil id v) s = .next (encodeInto id v s) := by
  cases v <;> rfl

/-- The expansion of `decodeResponse` receives the bytes and leaves their verdict (R75). -/
theorem execAll_expandDecodeResponse {bytes : List Byte} {s : State} (hfits : bytes.length ≤ s.cfg.rxCap) :
    ∃ t, execAll (expandDecodeResponse bytes) s = .next t ∧ t.rxFrame = bytes ∧
      t.result = verdictOf (decodeResponse s.cfg bytes) := by
  obtain ⟨u, hpush, hkept, happended⟩ := execAll_rxPush bytes (s := (s.setRxlen 0).setResult .none) (by simpa using hfits)
  have hclear : execAll (.rxClear :: bytes.map .rxPush) s = .next u := hpush
  have hcfg : u.cfg = s.cfg := hkept
  have hframe : u.rxFrame = bytes := happended
  have hlen : u.rxlen ≤ u.cfg.rxCap := by
    rw [← u.length_rxFrame, hframe, hcfg]; exact hfits
  have hexec : execAll (expandDecodeResponse bytes) s = exec .decResp u := by
    rw [expandDecodeResponse, execAll_append _ hclear, execAll_singleton]
  refine ⟨_, hexec.trans (exec_decResp_eq hlen), hframe, ?_⟩
  rw [State.setResult_result, hframe, hcfg]

/-- Settles O41: each expansion ends in a state whose view is the function's value. -/
theorem pseudoInstructionsRealiseFunctions : Obligations.PseudoInstructionsRealiseFunctions := by
  refine ⟨fun bytes s => ⟨rfl, _, execAll_expandCrc16 bytes s, ?_⟩,
    fun id v s => ⟨rfl, _, execAll_expandEncodeWriteSingleCoil id v s, ?_⟩, fun bytes s => ⟨rfl, fun hfits => ?_⟩⟩
  · rw [State.runEngine_eq]; rfl
  · rw [encodeInto_txFrame]; rfl
  · obtain ⟨t, hexec, hframe, hresult⟩ := execAll_expandDecodeResponse hfits
    refine ⟨t, hexec, hresult, ?_⟩
    rw [← hframe] at hresult ⊢
    rw [State.parsed_of_result hresult]
    cases decodeResponse s.cfg t.rxFrame <;> rfl

end Sys2Proof.Machine

/-! ## The CRC engine (40_crc_engine.md R91 to R102)

The bit step bit by bit; several bit steps as a linear bijection that only shifts while the bits shifted out are zeros; from
both the byte step and the residue; and the operations `CRC.INIT` and `CRC.BYTE`, alone and in a stream. -/

namespace Sys2Proof.Machine

/-! ### The bit step -/

theorem getLsbD_crcPoly {i : Nat} (hi : i < 16) : Config.crcPoly.getLsbD i = decide (i = 15 ∨ i = 13 ∨ i = 0) := by
  revert i; decide

/-- The bit step, bit by bit (R91). -/
theorem getLsbD_crc16Bit (a : U16) {i : Nat} (hi : i < 16) :
    (crc16Bit a).getLsbD i = (a.getLsbD (i + 1) ^^ (a.getLsbD 0 && decide (i = 15 ∨ i = 13 ∨ i = 0))) := by
  have hshift : (a >>> 1).getLsbD i = a.getLsbD (i + 1) := by rw [BitVec.getLsbD_ushiftRight, Nat.add_comm]
  unfold crc16Bit
  split
  · next h0 => rw [BitVec.getLsbD_xor, hshift, getLsbD_crcPoly hi, h0, Bool.true_and]
  · next h0 => rw [hshift, Bool.eq_false_of_not_eq_true h0, Bool.false_and, Bool.xor_false]

/-- A word whose bit 0 is 0 is only shifted (R91). -/
theorem crc16Bit_of_even {a : U16} (h : a.getLsbD 0 = false) : crc16Bit a = a >>> 1 := by
  rw [crc16Bit, h, if_neg Bool.false_ne_true]

/-- The bit step is linear over XOR (R101 (a)): each of its bits is an XOR of bits of the argument. -/
theorem crc16Bit_xor (x y : U16) : crc16Bit (x ^^^ y) = crc16Bit x ^^^ crc16Bit y := by
  apply BitVec.eq_of_getLsbD_eq
  intro i hi
  simp only [BitVec.getLsbD_xor, getLsbD_crc16Bit _ hi, Bool.and_xor_distrib_right, Bool.xor_assoc, Bool.xor_left_comm]

/-- Only zero steps to zero: bit 15 of the result is bit 0 of the argument, and after that every bit is a bit shifted. -/
theorem eq_zero_of_crc16Bit_eq_zero {a : U16} (h : crc16Bit a = 0#16) : a = 0#16 := by
  have hbit {i : Nat} (hi : i < 16) : (a.getLsbD (i + 1) ^^ (a.getLsbD 0 && decide (i = 15 ∨ i = 13 ∨ i = 0))) = false := by
    rw [← getLsbD_crc16Bit a hi, h, BitVec.getLsbD_zero]
  have h0 : a.getLsbD 0 = false := by simpa [BitVec.getLsbD_of_ge a 16 le_rfl] using hbit (i := 15) (by decide)
  apply BitVec.eq_of_getLsbD_eq
  intro i hi
  rw [BitVec.getLsbD_zero]
  cases i with
  | zero => exact h0
  | succ i =>
    have hnext := hbit (i := i) (by omega)
    rwa [h0, Bool.false_and, Bool.xor_false] at hnext

/-- The bit step is a bijection of the 16-bit words (R101 (b)). -/
theorem crc16Bit_bijective : Function.Bijective crc16Bit := by
  refine Finite.injective_iff_bijective.mp fun x y hxy => ?_
  have hzero : crc16Bit (x ^^^ y) = 0#16 := by rw [crc16Bit_xor, hxy, BitVec.xor_self]
  exact BitVec.xor_eq_zero_iff.mp (eq_zero_of_crc16Bit_eq_zero hzero)

/-! ### Several bit steps -/

theorem crc16Bits_eq_iterate (n : Nat) (a : U16) : crc16Bits n a = crc16Bit^[n] a := by
  induction n generalizing a with
  | zero => rfl
  | succ n ih => exact ih (crc16Bit a)

theorem crc16Bits_xor (n : Nat) (x y : U16) : crc16Bits n (x ^^^ y) = crc16Bits n x ^^^ crc16Bits n y := by
  induction n generalizing x y with
  | zero => rfl
  | succ n ih => rw [crc16Bits, crc16Bit_xor, ih]; rfl

theorem crc16Bits_bijective (n : Nat) : Function.Bijective (crc16Bits n) := by
  rw [funext (crc16Bits_eq_iterate n)]
  exact crc16Bit_bijective.iterate n

/-- Bit steps that shift out only zeros are a shift: no constant is ever XORed in (R91). -/
theorem crc16Bits_of_low_zero {n : Nat} {a : U16} (h : ∀ i < n, a.getLsbD i = false) : crc16Bits n a = a >>> n := by
  induction n generalizing a with
  | zero => rfl
  | succ n ih =>
    have hlow : ∀ i < n, (a >>> 1).getLsbD i = false := fun i hi => by
      rw [BitVec.getLsbD_ushiftRight, Nat.add_comm]
      exact h (i + 1) (by omega)
    rw [crc16Bits, crc16Bit_of_even (h 0 (Nat.succ_pos n)), ih hlow, Nat.add_comm n 1, BitVec.shiftRight_add]

theorem crc16Bits_zero (n : Nat) : crc16Bits n 0#16 = 0#16 := by
  rw [crc16Bits_of_low_zero fun _ _ => BitVec.getLsbD_zero, BitVec.zero_ushiftRight]

theorem crc16Bits_eq_zero_iff {n : Nat} {a : U16} : crc16Bits n a = 0#16 ↔ a = 0#16 :=
  (crc16Bits_bijective n).injective.eq_iff' (crc16Bits_zero n)

/-! ### The byte step -/

theorem zext16_xor (b b' : Byte) : zext16 (b ^^^ b') = zext16 b ^^^ zext16 b' := BitVec.setWidth_xor

theorem lo_xor (a b : U16) : lo (a ^^^ b) = lo a ^^^ lo b := BitVec.extractLsb'_xor

theorem hi_xor (a b : U16) : hi (a ^^^ b) = hi a ^^^ hi b := BitVec.extractLsb'_xor

/-- Injection changes the low byte only (R92). -/
theorem lo_inject (a : U16) (b : Byte) : lo (a ^^^ zext16 b) = lo a ^^^ b := by rw [lo_xor, lo_zext16]

theorem hi_inject (a : U16) (b : Byte) : hi (a ^^^ zext16 b) = hi a := by rw [hi_xor, hi_zext16, BitVec.xor_zero]

theorem crc16Step_eq (a : U16) (b : Byte) : crc16Step a b = crc16Bits 8 (a ^^^ zext16 b) := rfl

theorem crc16Step_eq_iterate (a : U16) (b : Byte) : crc16Step a b = crc16Bit^[8] (a ^^^ zext16 b) :=
  crc16Bits_eq_iterate 8 _

/-- A byte in the upper half is shifted down unchanged by 8 bit steps. -/
theorem crc16Bits_upper (b : Byte) : crc16Bits 8 (zext16 b <<< 8) = zext16 b := by
  have hlow : ∀ i < 8, (zext16 b <<< 8).getLsbD i = false := fun i hi => by simp [hi]
  rw [crc16Bits_of_low_zero hlow]
  apply BitVec.eq_of_getLsbD_eq
  intro i hi
  have hbyte : b.getLsbD i = true → 8 + i < 16 := fun h => Nat.add_lt_add_left (BitVec.lt_of_getLsbD h) 8
  simpa [zext16, hi] using hbyte

/-- The byte step is linear over XOR in both arguments (R101 (a)). -/
theorem crc16Step_xor (a a' : U16) (b b' : Byte) :
    crc16Step (a ^^^ a') (b ^^^ b') = crc16Step a b ^^^ crc16Step a' b' := by
  have hpair : (a ^^^ a') ^^^ zext16 (b ^^^ b') = (a ^^^ zext16 b) ^^^ (a' ^^^ zext16 b') := by
    rw [zext16_xor]; ac_rfl
  rw [crc16Step_eq, hpair, crc16Bits_xor]; rfl

/-- For a fixed byte the byte step is a bijection of the accumulator (R101 (b)). -/
theorem crc16Step_bijective (b : Byte) : Function.Bijective fun a => crc16Step a b := by
  have hinject : Function.Involutive fun a : U16 => a ^^^ zext16 b := fun a => by
    change a ^^^ zext16 b ^^^ zext16 b = a
    rw [BitVec.xor_assoc, BitVec.xor_self, BitVec.xor_zero]
  exact (crc16Bits_bijective 8).comp hinject.bijective

theorem zext16_hi (a : U16) : zext16 (hi a) = a >>> 8 := by
  apply BitVec.eq_of_getLsbD_eq
  intro i hi'
  have hhigh : a.getLsbD (8 + i) = true → i < 8 := fun h => Nat.lt_of_add_lt_add_left (BitVec.lt_of_getLsbD h)
  simpa [zext16, hi, hi'] using hhigh

/-- The table form (R101 (c)): the high byte moves down unchanged, and only the injected low byte goes through the steps. -/
theorem crc16Step_table (a : U16) (b : Byte) :
    crc16Step a b = (a >>> 8) ^^^ crc16Step 0#16 (lo (a ^^^ zext16 b)) := by
  rw [crc16Step_eq, crc16Step_eq, BitVec.zero_xor]
  conv_lhs => rw [eq_lo_xor_hi (a ^^^ zext16 b)]
  rw [crc16Bits_xor, crc16Bits_upper, hi_inject, zext16_hi, BitVec.xor_comm]

/-! ### The residue -/

/-- A word assembled by `|` is also assembled by `^`, since its halves do not overlap (R8). -/
theorem u16_eq_xor (l h : Byte) : u16 l h = zext16 l ^^^ (zext16 h <<< 8) := by
  have hword := eq_lo_xor_hi (u16 l h)
  rwa [lo_u16, hi_u16] at hword

/-- Two byte steps are 16 bit steps on the accumulator with both bytes injected at once: the second byte, injected in the
upper half, reaches the lower half when its turn comes. -/
theorem crc16Step_crc16Step (c : U16) (x y : Byte) :
    crc16Step (crc16Step c x) y = crc16Bits 8 (crc16Bits 8 (c ^^^ u16 x y)) := by
  rw [u16_eq_xor, ← BitVec.xor_assoc, crc16Bits_xor 8 (c ^^^ zext16 x), crc16Bits_upper]; rfl

/-- The residue (R102): two bytes bring the CRC to zero exactly when they are the CRC of the bytes before, low byte first. -/
theorem crc16_append_pair_eq_zero_iff (s : List Byte) (x y : Byte) : crc16 (s ++ [x, y]) = 0#16 ↔ crc16 s = u16 x y := by
  have hsteps : crc16 (s ++ [x, y]) = crc16Step (crc16Step (crc16 s) x) y := crc16_append s [x, y]
  rw [hsteps, crc16Step_crc16Step, crc16Bits_eq_zero_iff, crc16Bits_eq_zero_iff, BitVec.xor_eq_zero_iff]

/-- The decoder's CRC check as a residue (R102). -/
theorem crc16_frameBody_eq_frameCrc_iff {f : List Byte} (hlen : 2 ≤ f.length) :
    crc16 (frameBody f) = frameCrc f ↔ crc16 f = 0#16 := by
  obtain ⟨body, l, h, rfl⟩ := exists_body_trailer hlen
  rw [frameBody_append, frameCrc_append, crc16_append_pair_eq_zero_iff]

/-! ### The engine's operations -/

theorem exec_crcInit (s : State) : exec .crcInit s = .next (s.setAcc 0xFFFF#16) := rfl

theorem exec_crcByte (b : Byte) (s : State) : exec (.crcByte b) s = .next (s.setAcc (crc16Step s.acc b)) := rfl

theorem State.setAcc_self (s : State) : s.setAcc s.acc = s := rfl

/-! ### Streams -/

/-- A sequence that completes completes its first operation, and the rest from there. -/
theorem execAll_cons_next {i : Instr} {is : List Instr} {s t : State} (h : execAll (i :: is) s = .next t) :
    ∃ u, exec i s = .next u ∧ execAll is u = .next t := by
  rw [execAll] at h
  split at h
  · next u hu => exact ⟨u, hu, h⟩
  · cases h
  · cases h

theorem isStreaming_cases {i : Instr} (h : isStreaming i = true) :
    (∃ b, i = .crcByte b) ∨ i = .rxClear ∨ ∃ b, i = .rxPush b := by
  cases i with
  | crcByte b => exact .inl ⟨b, rfl⟩
  | rxClear => exact .inr (.inl rfl)
  | rxPush b => exact .inr (.inr ⟨b, rfl⟩)
  | crcInit | encWscOff _ | encWscOn _ | decResp | frameWscOn _ _ _ | frameWscOff _ _ _ => cases h

/-- Of the streaming operations only `CRC.BYTE` touches `ACC`: a stream leaves there the fold of the bytes it feeds (R100). -/
theorem execAll_streaming_acc {ops : List Instr} {s t : State} (hops : ∀ i ∈ ops, isStreaming i = true)
    (h : execAll ops s = .next t) : t.acc = (fedBytes ops).foldl crc16Step s.acc := by
  induction ops generalizing s with
  | nil => cases h; rfl
  | cons i ops ih =>
    obtain ⟨hi, hrest⟩ := List.forall_mem_cons.mp hops
    obtain ⟨u, hu, hall⟩ := execAll_cons_next h
    rw [ih hrest hall]
    rcases isStreaming_cases hi with ⟨b, rfl⟩ | rfl | ⟨b, rfl⟩
    · cases hu; rfl
    · cases hu; rfl
    · obtain ⟨-, rfl⟩ := execRxPush_cases hu; rfl

/-- A stream whose pushes fit the receive buffer is carried out to its end (R100, R128). -/
theorem execAll_streaming_completes {ops : List Instr} {s : State} (hops : ∀ i ∈ ops, isStreaming i = true)
    (hroom : s.rxlen + (pushedBytes ops).length ≤ s.cfg.rxCap) : ∃ t, execAll ops s = .next t := by
  induction ops generalizing s with
  | nil => exact ⟨s, rfl⟩
  | cons i ops ih =>
    obtain ⟨hi, hrest⟩ := List.forall_mem_cons.mp hops
    rcases isStreaming_cases hi with ⟨b, rfl⟩ | rfl | ⟨b, rfl⟩
    · exact ih hrest (s := s.feed b) hroom
    · have hclear : 0 + (pushedBytes ops).length ≤ s.cfg.rxCap :=
        (Nat.add_le_add_right (Nat.zero_le s.rxlen) _).trans hroom
      exact ih hrest (s := (s.setRxlen 0).setResult .none) hclear
    · have hpush : s.rxlen + ((pushedBytes ops).length + 1) ≤ s.cfg.rxCap := hroom
      have hexec : exec (.rxPush b) s = .next (((s.setByte .rx s.rxlen b).setRxlen (s.rxlen + 1)).setResult .none) :=
        if_pos (by omega)
      have hleft : s.rxlen + 1 + (pushedBytes ops).length ≤ s.cfg.rxCap := by omega
      rw [execAll_cons ops hexec]
      exact ih hrest hleft

/-! ### The statements of 40_crc_engine.md -/

/-- Settles O1: `getLsbD_crc16Bit`, and the rule's examples by evaluation. -/
theorem bitStepShiftsAndFlips : Obligations.BitStepShiftsAndFlips :=
  ⟨fun a _ => getLsbD_crc16Bit a, by decide, by decide, by decide, by decide⟩

/-- Settles O2: the byte lies in the low half of the word injected, and `crc16Bits 8` is the eightfold iterate. -/
theorem byteStepInjectsThenEightBits : Obligations.ByteStepInjectsThenEightBits :=
  ⟨fun a b => ⟨lo_inject a b, hi_inject a b, crc16Step_eq_iterate a b⟩, by decide, by decide⟩

/-- Settles O3: `crc16` is a left fold. -/
theorem crcIsFoldFromInit : Obligations.CrcIsFoldFromInit :=
  ⟨rfl, fun s b => crc16_append s [b]⟩

/-- Settles O4: linearity bit by bit; bijectivity from linearity and the kernel of the bit step; the table form from linearity
and from the upper half being shifted only. -/
theorem crcLinearBijectiveTable : Obligations.CrcLinearBijectiveTable :=
  ⟨crc16Bit_xor, crc16Step_xor, crc16Bits_zero 8, crc16Bit_bijective, crc16Step_bijective, crc16Step_table⟩

/-- Settles O5: all three parts are the residue `crc16_append_pair_eq_zero_iff`. -/
theorem crcResidueIsZero : Obligations.CrcResidueIsZero := by
  refine ⟨fun s => ?_, fun s x y hzero => ?_, fun f => crc16_frameBody_eq_frameCrc_iff⟩
  · rw [crc16_append_pair_eq_zero_iff, u16_lo_hi]
  · rw [(crc16_append_pair_eq_zero_iff s x y).mp hzero, lo_u16, hi_u16]
    exact ⟨rfl, rfl⟩

/-- Settles O6: `CRC.INIT` is one write of `ACC`, whatever `ACC` holds. -/
theorem crcInitSetsAccumulator : Obligations.CrcInitSetsAccumulator :=
  ⟨by decide, fun s => ⟨exec_crcInit s, exec_crcInit _⟩⟩

/-- Settles O7: `CRC.BYTE` is one write of `ACC` by the byte step, evaluated at the rule's corner values. -/
theorem crcByteStepsAccumulator : Obligations.CrcByteStepsAccumulator := by
  refine ⟨fun b s => ?_, fun b => ?_, fun s hacc => ?_, fun s hacc => ?_, fun s hacc => ?_⟩
  · rw [exec_crcByte, crc16Step_eq_iterate]; rfl
  · exact congrArg PortWord.command (commandWord_or_byte 2 false b).symm
  · have hstep : crc16Step 0xFFFF#16 0x00#8 = 0x40BF#16 := by decide
    rw [exec_crcByte, hacc, hstep]; rfl
  · have hstep : crc16Step s.acc 0x00#8 = s.acc := by rw [hacc]; decide
    rw [exec_crcByte, hstep, State.setAcc_self]
  · have hstep : crc16Step 0x807E#16 0x05#8 = 0x23C0#16 := by decide
    rw [exec_crcByte, hacc, hstep]; rfl

/-- Settles O8: after `CRC.INIT` the state is `s` with `ACC` at the start of every fold, so the bytes fed leave their `crc16`;
the three views are views of `ACC`. -/
theorem streamingRealisesCrc : Obligations.StreamingRealisesCrc := by
  intro ops s hops
  rw [execAll_cons ops (exec_crcInit s)]
  refine ⟨fun t hall => ?_, execAll_streaming_completes (s := s.setAcc 0xFFFF#16) hops⟩
  have hacc : t.acc = crc16 (fedBytes ops) := execAll_streaming_acc hops hall
  exact ⟨hacc, congrArg lo hacc, congrArg hi hacc⟩

end Sys2Proof.Machine

/-! ## The frame encoder (41_frame_encoder.md R111 to R117)

The request frame byte by byte; that storing a run of bytes a second time changes nothing, and with it the operation `ENC.WSC`;
the frames of the deployment. -/

namespace Sys2Proof.Machine

/-! ### The function -/

/-- At coil address 0 the function has a value, the request frame (R111). -/
theorem encodeWriteSingleCoil_zero (id : Byte) (v : Bool) :
    encodeWriteSingleCoil id 0#16 v = some (requestFrame id v) := rfl

/-- The request frame with the CRC of its header, byte by byte (R111). -/
theorem encodeWriteSingleCoil_of_crc {id : Byte} {v : Bool} {c : U16} (hcrc : crc16 (header id v) = c) :
    encodeWriteSingleCoil id 0#16 v =
      some [id, 0x05#8, 0x00#8, 0x00#8, if v then 0xFF#8 else 0x00#8, 0x00#8, lo c, hi c] := by
  rw [encodeWriteSingleCoil_zero, requestFrame, hcrc, header_eq]; rfl

section DeploymentHeaders

-- One evaluation of `crc16` on six bytes is 48 bit steps, deeper than the default bound.
set_option maxRecDepth 4000

/-- The CRCs of the deployment's headers (R114). -/
theorem crc16_header_on1 : crc16 (header 1#8 true) = 0x3A8C#16 := by decide

theorem crc16_header_off1 : crc16 (header 1#8 false) = 0xCACD#16 := by decide

theorem crc16_header_on2 : crc16 (header 2#8 true) = 0x098C#16 := by decide

theorem crc16_header_off2 : crc16 (header 2#8 false) = 0xF9CD#16 := by decide

end DeploymentHeaders

/-! ### The same bytes stored again -/

/-- Storing bytes above an index leaves a settled byte settled. -/
theorem State.settled_storeFrom_tx_above {s : State} {i j : Nat} {v : Byte} (vs : List Byte) (hij : i < j)
    (h : Memory.settled i v s.txbuf) : Memory.settled i v (s.storeFrom .tx j vs).txbuf := by
  induction vs generalizing s j with
  | nil => exact h
  | cons w vs ih =>
    exact ih (s := s.setByte .tx j w) (Nat.lt_succ_of_lt hij) (Memory.settled_write_above hij h)

/-- Where `TXBUF` is as a store has left it, the same store changes nothing: each byte it writes is settled. -/
theorem State.storeFrom_tx_again {s t : State} {i : Nat} {vs : List Byte}
    (h : t.txbuf = (s.storeFrom .tx i vs).txbuf) : t.storeFrom .tx i vs = t := by
  induction vs generalizing s i with
  | nil => rfl
  | cons v vs ih =>
    have hsettled : Memory.settled i v t.txbuf :=
      h ▸ State.settled_storeFrom_tx_above (s := s.setByte .tx i v) vs (Nat.lt_succ_self i)
        (Memory.settled_write i v s.txbuf)
    have hfirst : t.setByte .tx i v = t := by
      rw [State.setByte_tx, Memory.write_settled hsettled]; rfl
    rw [State.storeFrom, hfirst]
    exact ih (s := s.setByte .tx i v) h

/-! ### The operation -/

/-- Both rows of `ENC.WSC` complete in every state (R113). -/
theorem exec_encWsc (id : Byte) (v : Bool) (s : State) : exec (encWsc id v) s = .next (encodeInto id v s) := by
  cases v <;> rfl

theorem encode_encWsc (id : Byte) (v : Bool) : encode (encWsc id v) = .command (commandWord 3 v id) := by
  cases v <;> rfl

/-- `ENC.WSC` leaves every byte of the receive side (R113, R118). -/
theorem encodeInto_byteAt_rx (s : State) (id : Byte) (v : Bool) (k : Nat) :
    (encodeInto id v s).byteAt .rx k = s.byteAt .rx k := by
  rw [State.byteAt_rx, State.byteAt_rx, encodeInto_rxbuf, encodeInto_rxlen, encodeInto_epoch]

/-- The same operands twice give the same state (R113). -/
theorem encodeInto_encodeInto (s : State) (id : Byte) (v : Bool) :
    encodeInto id v (encodeInto id v s) = encodeInto id v s := by
  have hstored : (encodeInto id v s).txbuf = (s.storeFrom .tx 0 (requestFrame id v)).txbuf := by
    rw [encodeInto_eq]; rfl
  rw [encodeInto_eq (encodeInto id v s), State.storeFrom_tx_again hstored, encodeInto_eq]
  rfl

/-! ### The statements of 41_frame_encoder.md -/

/-- Settles O11: the next state is `encodeInto id v s`, read field by field, and a second `ENC.WSC` finds all it writes there
already. -/
theorem encWscBuildsFrame : Obligations.EncWscBuildsFrame := by
  refine ⟨fun id v s => ⟨encodeInto id v s, exec_encWsc id v s, ?frame, ?acc, encodeInto_txvalid s id v,
    encodeInto_result s id v, encodeInto_rxbuf s id v, encodeInto_rxlen s id v, encodeInto_cfg s id v,
    encodeInto_epoch s id v, encodeInto_port s id v, fun _ => encodeInto_byteAt_tx_beyond s id v,
    encodeInto_byteAt_rx s id v, ?again⟩, fun id v => ?word, encodeWriteSingleCoil_of_crc crc16_header_on1⟩
  case frame => rw [encodeInto_txFrame, encodeWriteSingleCoil_zero]
  case acc => rw [encodeInto_acc, encodeInto_txFrame, requestFrame_take_header]
  case again => exact (exec_encWsc id v _).trans (congrArg _ (encodeInto_encodeInto s id v))
  case word =>
    have hhigh : commandWord 3 v 0 = 0x3000#16 ||| (if v then 0x0100#16 else 0#16) := by cases v <;> rfl
    rw [← hhigh, commandWord_or_byte]
    exact encode_encWsc id v

/-- Settles O10: the frame of R111 with the CRC of its header, and the guard of R117. -/
theorem requestFrameBytes : Obligations.RequestFrameBytes :=
  ⟨fun id v => ⟨_, rfl, encodeWriteSingleCoil_of_crc (congrArg crc16 (header_eq id v))⟩, fun _ _ _ ha => if_neg ha⟩

/-- A row of the table of R114 follows from its command word and the CRC of its header. -/
theorem encWsc_row {id : Byte} {v : Bool} {w c : U16} (hword : commandWord 3 v id = w) (hcrc : crc16 (header id v) = c) :
    encode (encWsc id v) = .command w ∧
    crc16 [id, 0x05#8, 0x00#8, 0x00#8, if v then 0xFF#8 else 0x00#8, 0x00#8] = c ∧
    encodeWriteSingleCoil id 0#16 v =
      some [id, 0x05#8, 0x00#8, 0x00#8, if v then 0xFF#8 else 0x00#8, 0x00#8, lo c, hi c] :=
  ⟨hword ▸ encode_encWsc id v, header_eq id v ▸ hcrc, encodeWriteSingleCoil_of_crc hcrc⟩

theorem slaveIdDeployed_iff (id : Byte) : slaveIdDeployed id = true ↔ id = 1#8 ∨ id = 2#8 := by
  simp [slaveIdDeployed, Config.deploymentSlaves]

/-- Settles O46: each row by `encWsc_row`, its command word by evaluation. -/
theorem deploymentFrames : Obligations.DeploymentFrames :=
  ⟨slaveIdDeployed_iff,
    encWsc_row (by decide) crc16_header_on1,
    encWsc_row (by decide) crc16_header_off1,
    encWsc_row (by decide) crc16_header_on2,
    encWsc_row (by decide) crc16_header_off2⟩

end Sys2Proof.Machine

/-! ## The frame decoder (42_frame_decoder.md R126 to R138)

The functions `parse` and `decodeResponse` on a body and a trailer; the receive operations as field updates; and a sequence of
receive operations, by what each one appends to the inbound frame. -/

namespace Sys2Proof.Machine

/-! ### The functions -/

/-- A frame of four bytes or more, field by field (R133). -/
theorem parse_fields (a f : Byte) (d : List Byte) (l h : Byte) :
    parse ([a, f] ++ d ++ [l, h]) = ⟨[a, f] ++ d, u16 l h, some a, some f, some d⟩ := by
  have hlen : 4 ≤ ([a, f] ++ d ++ [l, h]).length := by simp
  rw [parse, if_pos hlen, if_pos hlen, if_pos hlen, frameBody_append, frameCrc_append]; rfl

/-- A frame that passes the length test is a body and a trailer (R130): `MIN_RESP_LEN` is at least 2. -/
theorem exists_body_trailer_of_minRespLen {p : Params} {f : List Byte} (hlen : p.minRespLen ≤ f.length) :
    ∃ body l h, f = body ++ [l, h] :=
  exists_body_trailer (p.minRespLen_ge.trans hlen)

/-- Past the length test only the CRC of the body decides (R130). -/
theorem decodeResponse_append {p : Params} {body : List Byte} (l h : Byte) (hlen : p.minRespLen ≤ body.length + 2) :
    decodeResponse p (body ++ [l, h]) =
      if crc16 body = u16 l h then .ok (parse (body ++ [l, h])) else .error .crcMismatch := by
  have hge : ¬ (body ++ [l, h]).length < p.minRespLen := by simpa using hlen
  rw [decodeResponse, if_neg hge, frameBody_append, frameCrc_append]

/-- The encoder's frame passes both tests for every admitted `MIN_RESP_LEN` (R138): it has 8 bytes, and its trailer is read
back as the CRC of its header. -/
theorem decodeResponse_requestFrame (p : Params) (id : Byte) (v : Bool) :
    decodeResponse p (requestFrame id v) = .ok (parse (requestFrame id v)) :=
  (decodeResponse_append _ _ p.minRespLen_le).trans (if_pos (u16_lo_hi _).symm)

/-- The record of the encoder's frame (R138). -/
theorem parse_requestFrame (id : Byte) (v : Bool) :
    parse (requestFrame id v) = ⟨header id v, crc16 (header id v), some id, some 0x05#8,
      some [0x00#8, 0x00#8, if v then 0xFF#8 else 0x00#8, 0x00#8]⟩ := by
  have hsplit : header id v = [id, 0x05#8] ++ [0x00#8, 0x00#8, if v then 0xFF#8 else 0x00#8, 0x00#8] := header_eq id v
  rw [requestFrame, littleEndian, hsplit, parse_fields, u16_lo_hi]

/-! ### The operations -/

theorem exec_rxClear (s : State) : exec .rxClear s = .next ((s.setRxlen 0).setResult .none) := rfl

theorem exec_rxPush_full {s : State} (b : Byte) (hfull : s.rxlen = s.cfg.rxCap) :
    exec (.rxPush b) s = .refused .receiveBufferFull :=
  (if_neg hfull.not_lt).trans (if_pos hfull)

/-- The accumulator a `DEC.RESP` leaves is the one a second `DEC.RESP` leaves (R129). -/
theorem State.decRespAcc_again (s : State) (v : Verdict) :
    ((s.setAcc s.decRespAcc).setResult v).decRespAcc = s.decRespAcc := by
  by_cases hshort : s.rxlen < s.cfg.minRespLen
  · exact if_pos hshort
  · exact (if_neg hshort).trans (if_neg hshort).symm

/-- `DEC.RESP` again gives the same (R129). -/
theorem exec_decResp_again {s t : State} (hrange : s.rxlen ≤ s.cfg.rxCap) (h : exec .decResp s = .next t) :
    exec .decResp t = .next t := by
  obtain rfl := execDecResp_next h
  rw [exec_decResp_eq, State.decRespAcc_again]
  · rfl
  · exact hrange

/-! ### Sequences of receive operations -/

/-- `parsed` is the record of the inbound frame while `RESULT` is `OK` (R29). -/
theorem State.parsed_of_ok {s : State} (h : s.result = .ok) : s.parsed = some (parse s.rxFrame) := by
  rw [State.parsed, h]

theorem encodeInto_rxFrame (s : State) (id : Byte) (v : Bool) : (encodeInto id v s).rxFrame = s.rxFrame := by
  rw [State.rxFrame, encodeInto_rxlen]
  exact State.readBytes_congr fun k _ => encodeInto_byteAt_rx s id v k

theorem pushedBytes_cons (i : Instr) (is : List Instr) : pushedBytes (i :: is) = pushedBytes [i] ++ pushedBytes is := by
  cases i <;> rfl

/-- An operation that may stand before the `DEC.RESP` completes if what it pushes fits, and appends just that to the inbound
frame (R127, R131). -/
theorem exec_receiving {i : Instr} {s : State} (hi : isReceiving i = true)
    (hroom : s.rxlen + (pushedBytes [i]).length ≤ s.cfg.rxCap) :
    ∃ t, exec i s = .next t ∧ t.cfg = s.cfg ∧ t.rxFrame = s.rxFrame ++ pushedBytes [i] := by
  have hkeep : s.rxFrame = s.rxFrame ++ [] := (List.append_nil _).symm
  cases i with
  | crcInit => exact ⟨_, rfl, rfl, hkeep⟩
  | crcByte b => exact ⟨_, rfl, rfl, hkeep⟩
  | encWscOff id => exact ⟨_, rfl, encodeInto_cfg s id false, (encodeInto_rxFrame s id false).trans hkeep⟩
  | encWscOn id => exact ⟨_, rfl, encodeInto_cfg s id true, (encodeInto_rxFrame s id true).trans hkeep⟩
  | rxPush b => exact exec_rxPush_appends b hroom
  | rxClear | decResp | frameWscOn _ _ _ | frameWscOff _ _ _ => cases hi

/-- Such operations, one after another, append what they push to the inbound frame, in order (R131). -/
theorem execAll_receiving {ops : List Instr} {s : State} (hops : ∀ i ∈ ops, isReceiving i = true)
    (hroom : s.rxlen + (pushedBytes ops).length ≤ s.cfg.rxCap) :
    ∃ t, execAll ops s = .next t ∧ t.cfg = s.cfg ∧ t.rxFrame = s.rxFrame ++ pushedBytes ops := by
  induction ops generalizing s with
  | nil => exact ⟨s, rfl, rfl, (List.append_nil _).symm⟩
  | cons i ops ih =>
    obtain ⟨hi, hrest⟩ := List.forall_mem_cons.mp hops
    rw [pushedBytes_cons, List.length_append] at hroom
    obtain ⟨u, hexec, hcfg, hframe⟩ := exec_receiving (s := s) hi (by omega)
    have hlen : u.rxlen = s.rxlen + (pushedBytes [i]).length := by
      rw [← u.length_rxFrame, hframe, List.length_append, s.length_rxFrame]
    obtain ⟨t, hall, hcfg', hframe'⟩ := ih (s := u) hrest (by rw [hlen, hcfg]; omega)
    refine ⟨t, (execAll_cons ops hexec).trans hall, hcfg'.trans hcfg, ?_⟩
    rw [hframe', hframe, pushedBytes_cons i ops, List.append_assoc]

/-- `RX.CLEAR`, pushes that fit, with other operations between them, and `DEC.RESP` hold the bytes pushed and leave their
verdict (R131). -/
theorem execAll_receive {ops : List Instr} {s : State} (hops : ∀ i ∈ ops, isReceiving i = true)
    (hfits : (pushedBytes ops).length ≤ s.cfg.rxCap) :
    ∃ t, execAll (.rxClear :: ops ++ [.decResp]) s = .next t ∧ t.rxFrame = pushedBytes ops ∧
      t.result = verdictOf (decodeResponse s.cfg (pushedBytes ops)) := by
  have hroom : 0 + (pushedBytes ops).length ≤ s.cfg.rxCap := by omega
  obtain ⟨u, hall, hkept, happended⟩ := execAll_receiving (s := (s.setRxlen 0).setResult .none) hops hroom
  have hcfg : u.cfg = s.cfg := hkept
  have hframe : u.rxFrame = pushedBytes ops := happended
  have hrange : u.rxlen ≤ u.cfg.rxCap := by
    rw [← u.length_rxFrame, hframe, hcfg]; exact hfits
  have hexec : execAll (.rxClear :: ops ++ [.decResp]) s = exec .decResp u := by
    rw [execAll_append _ ((execAll_cons ops (exec_rxClear s)).trans hall), execAll_singleton]
  refine ⟨_, hexec.trans (exec_decResp_eq hrange), hframe, ?_⟩
  rw [State.setResult_result, hframe, hcfg]

/-! ### The statements of 42_frame_decoder.md -/

/-- Settles O15: the next state is that of `execRxPush_cases`, its bytes by `byteAt_append_rx`, its frame by
`exec_rxPush_appends`. -/
theorem rxPushAppendsByte : Obligations.RxPushAppendsByte := by
  refine ⟨fun b s hroom => ?_, fun b => congrArg PortWord.command (commandWord_or_byte 5 false b).symm⟩
  obtain ⟨t, hexec, -, hframe⟩ := exec_rxPush_appends b hroom
  obtain ⟨-, rfl⟩ := execRxPush_cases hexec
  have hbyte (c : Buffer) (k : Nat) := s.byteAt_append_rx c k b
  exact ⟨_, hexec, (hbyte .rx _).trans (if_pos ⟨rfl, rfl⟩), rfl, rfl, hframe,
    fun k hk => (hbyte .rx k).trans (if_neg fun h => hk h.2), fun k => (hbyte .tx k).trans (if_neg (by simp)),
    rfl, rfl, rfl, rfl, rfl, rfl⟩

/-- Settles O18: in its range `DEC.RESP` completes, and of the three outcomes of `execDecResp_cases` each premise leaves
one. -/
theorem decRespGivesVerdict : Obligations.DecRespGivesVerdict := by
  refine ⟨by decide, fun s hrange => ?_⟩
  have hagain (t : State) (h : exec .decResp s = .next t) := exec_decResp_again hrange h
  obtain ⟨t, ht⟩ : ∃ t, exec .decResp s = .next t := ⟨_, exec_decResp_eq hrange⟩
  rcases execDecResp_cases ht with ⟨hshort, rfl⟩ | ⟨hlen, -, ⟨heq, rfl⟩ | ⟨hne, rfl⟩⟩
  · exact ⟨fun _ => ht, fun hlen _ => absurd hshort hlen.not_gt, fun hlen _ => absurd hshort hlen.not_gt, hagain⟩
  · exact ⟨fun hshort => absurd hshort hlen.not_gt, fun _ _ => ht, fun _ hne => absurd heq hne, hagain⟩
  · exact ⟨fun hshort => absurd hshort hlen.not_gt, fun _ heq => absurd heq hne, fun _ _ => ht, hagain⟩

/-- Settles O21: `execAll_receive` gives the inbound frame and its verdict; the verdict names the outcome. -/
theorem receiveRealisesDecodeResponse : Obligations.ReceiveRealisesDecodeResponse := by
  intro ops s hops hfits
  obtain ⟨t, hexec, hframe, hresult⟩ := execAll_receive hops hfits
  refine ⟨t, hexec, ?_, ?_, ?_, fun hok => hframe ▸ State.parsed_of_ok hok⟩ <;> rw [hresult]
  · exact verdictOf_eq_ok_iff
  · exact verdictOf_eq_verdict_iff (e := .tooShort)
  · exact verdictOf_eq_verdict_iff (e := .crcMismatch)

/-- Settles O22: the frame decodes to its own record, `parse_requestFrame`. -/
theorem encodedFrameDecodesOk : Obligations.EncodedFrameDecodesOk := by
  intro p id v
  refine ⟨_, _, encodeWriteSingleCoil_zero id v, decodeResponse_requestFrame p id v, ?_⟩
  rw [parse_requestFrame, requestFrame_take_header]
  exact ⟨rfl, rfl, rfl, rfl, rfl⟩

/-- Settles O14: `RX.CLEAR` is two field writes, whatever the fields hold. -/
theorem rxClearEmptiesBuffer : Obligations.RxClearEmptiesBuffer :=
  ⟨by decide, fun s => ⟨exec_rxClear s, exec_rxClear _⟩⟩

/-- Settles O16: the full buffer takes the refusing branch. -/
theorem rxPushRefusedWhenFull : Obligations.RxPushRefusedWhenFull :=
  fun b _ => exec_rxPush_full b

/-- Settles O19: `decodeResponse_append` under each outcome of the CRC comparison. -/
theorem decodeResponseChecksLengthThenCrc : Obligations.DecodeResponseChecksLengthThenCrc :=
  ⟨fun _ _ => decodeResponse_eq_tooShort_iff.mpr, fun _ _ => exists_body_trailer_of_minRespLen, fun _ _ l h hlen =>
    ⟨fun heq => (decodeResponse_append l h hlen).trans (if_pos heq),
      fun hne => (decodeResponse_append l h hlen).trans (if_neg hne)⟩⟩

/-- Settles O20: body and CRC by the two halves of a frame, the other fields by `parse_fields`, and below four bytes by the
guard of each field. -/
theorem parsedResponseFields : Obligations.ParsedResponseFields := by
  refine ⟨fun body l h hcrc => ?_, fun a f l h d => ?_, fun bytes hshort => ?_⟩
  · have htrailer : (parse (body ++ [l, h])).crc = u16 l h := frameCrc_append body l h
    exact ⟨frameBody_append body l h, htrailer, htrailer.trans hcrc.symm⟩
  · rw [parse_fields]; exact ⟨rfl, rfl, rfl⟩
  · have hguard : ¬ 4 ≤ bytes.length := Nat.not_le.mpr hshort
    exact ⟨if_neg hguard, if_neg hguard, if_neg hguard⟩

end Sys2Proof.Machine

/-! ## Wire frames (30_encoding.md R60 to R68)

The two wire-frame rows as one: what such a row encodes to, when it is well formed, what the decoder makes of its bytes and
what carrying it out does; from these the statements about request frames as instructions. -/

namespace Sys2Proof.Machine

/-- The wire frame of a slave id, a value and a trailer, in its two table rows. -/
def frameWsc (a : Byte) (v : Bool) (l h : Byte) : Instr := if v then .frameWscOn a l h else .frameWscOff a l h

/-! ### The rows -/

theorem encode_frameWsc (a : Byte) (v : Bool) (l h : Byte) : encode (frameWsc a v l h) = .frame (header a v ++ [l, h]) := by
  cases v <;> rfl

theorem wf_frameWsc (a : Byte) (v : Bool) (l h : Byte) : (frameWsc a v l h).wf = frameTrailerOk a v l h := by
  cases v <;> rfl

/-- An instruction is one of the six operations or a wire frame. -/
theorem isOperation_or_frameWsc (i : Instr) : isOperation i = true ∨ ∃ a v l h, i = frameWsc a v l h := by
  cases i with
  | crcInit | crcByte _ | encWscOff _ | encWscOn _ | rxClear | rxPush _ | decResp => exact .inl rfl
  | frameWscOn a l h => exact .inr ⟨a, true, l, h, rfl⟩
  | frameWscOff a l h => exact .inr ⟨a, false, l, h, rfl⟩

/-- The constraint of a row is that its trailer is the CRC of its header, low byte first (R65). -/
theorem frameTrailerOk_iff {a : Byte} {v : Bool} {l h : Byte} :
    frameTrailerOk a v l h = true ↔ [l, h] = littleEndian (crc16 (header a v)) := beq_iff_eq

/-- The bytes of a row that meets its constraint are the encoder's frame (R111). -/
theorem requestFrame_of_trailerOk {a : Byte} {v : Bool} {l h : Byte} (hok : frameTrailerOk a v l h = true) :
    requestFrame a v = header a v ++ [l, h] := by
  rw [requestFrame, frameTrailerOk_iff.mp hok]

/-- With the right trailer a wire frame does what `ENC.WSC` does; with another it is refused (assumption 8). -/
theorem exec_frameWsc (a : Byte) (v : Bool) (l h : Byte) (s : State) :
    exec (frameWsc a v l h) s =
      if frameTrailerOk a v l h then .next (encodeInto a v s) else .refused .frameTrailerNotCrc := by
  cases v <;> rfl

theorem exec_frameWsc_cases {a : Byte} {v : Bool} {l h : Byte} {s t : State} (hx : exec (frameWsc a v l h) s = .next t) :
    t = encodeInto a v s := by
  cases v
  · exact (execFrameWscOff_cases hx).2
  · exact (execFrameWscOn_cases hx).2

/-! ### The decoder on a frame -/

/-- Decoding the bytes of a row leaves only its constraint to be tested. -/
theorem decode_frame_header (a : Byte) (v : Bool) (l h : Byte) :
    decode (.frame (header a v ++ [l, h])) = decodeTrailer a v l h := by
  cases v <;> rfl

/-- A well-formed row is decoded from its frame. -/
theorem decode_encode_frameWsc {a : Byte} {v : Bool} {l h : Byte} (hok : frameTrailerOk a v l h = true) :
    decode (encode (frameWsc a v l h)) = .ok (frameWsc a v l h) := by
  rw [encode_frameWsc, decode_frame_header]
  exact if_pos hok

theorem decodeTrailer_cases {a : Byte} {v : Bool} {l h : Byte} {i : Instr} (hd : decodeTrailer a v l h = .ok i) :
    frameTrailerOk a v l h = true ∧ i = frameWsc a v l h := by
  unfold decodeTrailer at hd
  split at hd
  · next hok => cases hd; exact ⟨hok, rfl⟩
  · cases hd

/-- What is decoded from bytes is a row that meets its constraint, and the bytes are that row's. -/
theorem decode_frame_cases {bytes : List Byte} {i : Instr} (hd : decode (.frame bytes) = .ok i) :
    ∃ a v l h, bytes = header a v ++ [l, h] ∧ frameTrailerOk a v l h = true ∧ i = frameWsc a v l h := by
  rw [decode] at hd
  unfold decodeFrame at hd
  split at hd
  case h_2 => cases hd
  case h_1 a fc ah al vh vl l h =>
    split at hd
    · cases hd
    next hfc =>
    split at hd
    · cases hd
    next haddr =>
    have hfc := not_not.mp hfc
    have haddr := not_not.mp haddr
    -- The six bytes in front of the trailer are those of a header as soon as the value field is one of the two.
    have hbytes {v : Bool} (hval : [vh, vl] = bigEndian (valueField v)) :
        [a, fc, ah, al, vh, vl, l, h] = header a v ++ [l, h] :=
      show [a, fc] ++ [ah, al] ++ [vh, vl] ++ [l, h] = _ by rw [hfc, haddr, hval, header]
    split at hd
    · next hon => exact ⟨a, true, l, h, hbytes hon, decodeTrailer_cases hd⟩
    · split at hd
      · next hoff => exact ⟨a, false, l, h, hbytes hoff, decodeTrailer_cases hd⟩
      · cases hd

/-- Every well-formed instruction is decoded from its encoding (R76, R60). -/
theorem decode_encode {i : Instr} (hwf : i.wf = true) : decode (encode i) = .ok i := by
  rcases isOperation_or_frameWsc i with hop | ⟨a, v, l, h, rfl⟩
  · exact decode_encode_operation hop
  · exact decode_encode_frameWsc (wf_frameWsc a v l h ▸ hwf)

/-- The byte sequences that decode are the encoder's frames (R60, R65). -/
theorem exists_decode_frame_iff {bytes : List Byte} :
    (∃ i, decode (.frame bytes) = .ok i) ↔ ∃ a v, encodeWriteSingleCoil a 0#16 v = some bytes := by
  constructor
  · rintro ⟨i, hd⟩
    obtain ⟨a, v, l, h, rfl, hok, -⟩ := decode_frame_cases hd
    exact ⟨a, v, congrArg some (requestFrame_of_trailerOk hok)⟩
  · rintro ⟨a, v, henc⟩
    obtain rfl : requestFrame a v = bytes := Option.some.inj henc
    have hok : frameTrailerOk a v (lo (crc16 (header a v))) (hi (crc16 (header a v))) = true := frameTrailerOk_iff.mpr rfl
    have hd := decode_encode_frameWsc hok
    rw [encode_frameWsc] at hd
    exact ⟨_, hd⟩

/-! ### The statements about request frames -/

/-- Settles O34: `decode_encode`; `decode_frame_cases`, which names the row a frame decodes to; and that a row's bytes with its
constraint are the encoder's frame. -/
theorem frameDecodeEncodeInverse : Obligations.FrameDecodeEncodeInverse := by
  refine ⟨fun _ => decode_encode, fun bytes i hd => ?_, fun _ => exists_decode_frame_iff⟩
  obtain ⟨a, v, l, h, rfl, hok, rfl⟩ := decode_frame_cases hd
  exact ⟨encode_frameWsc a v l h, (wf_frameWsc a v l h).trans hok⟩

/-- Settles O12: under the constraint the row's next state is `encodeInto a v s`, read field by field, and its frame is the
row's bytes. -/
theorem wireFrameIsTheCallItEncodes : Obligations.WireFrameIsTheCallItEncodes := by
  intro a l h v s
  rw [← header_eq]
  refine ⟨fun htrailer => ?_, fun htrailer => ?_⟩
  · have hok : frameTrailerOk a v l h = true := frameTrailerOk_iff.mpr htrailer
    have hframe : (encodeInto a v s).txFrame = header a v ++ [l, h] :=
      (encodeInto_txFrame s a v).trans (requestFrame_of_trailerOk hok)
    refine ⟨encodeInto a v s, (exec_frameWsc a v l h s).trans (if_pos hok), exec_encWsc a v s, ?bytes, ?word, ?acc,
      encodeInto_txvalid s a v, encodeInto_result s a v, encodeInto_rxbuf s a v, encodeInto_rxlen s a v,
      encodeInto_cfg s a v, encodeInto_epoch s a v, encodeInto_port s a v, fun _ => encodeInto_byteAt_tx_beyond s a v,
      encodeInto_byteAt_rx s a v⟩
    case bytes => rw [hframe, header_eq]; rfl
    case word => rw [hframe]; exact encode_frameWsc a v l h
    case acc => rw [encodeInto_acc, encodeInto_txFrame, requestFrame_take_header]
  · exact (exec_frameWsc a v l h s).trans (if_neg (mt frameTrailerOk_iff.mp htrailer))

/-- The four encoder rows: which frame is built is in the instruction alone (R113, assumption 8). -/
theorem exec_encoder_row {i : Instr}
    (hi : (∃ id, i = .encWscOn id ∨ i = .encWscOff id) ∨ ∃ a l h, i = .frameWscOn a l h ∨ i = .frameWscOff a l h) :
    ∃ id v, ∀ s t, exec i s = .next t → t = encodeInto id v s := by
  rcases hi with ⟨id, rfl | rfl⟩ | ⟨a, l, h, rfl | rfl⟩
  · exact ⟨id, true, fun s t hx => by cases hx; rfl⟩
  · exact ⟨id, false, fun s t hx => by cases hx; rfl⟩
  · exact ⟨a, true, fun s t hx => (execFrameWscOn_cases hx).2⟩
  · exact ⟨a, false, fun s t hx => (execFrameWscOff_cases hx).2⟩

/-- Settles O13: both next states are `encodeInto` of the same id and value, whose frame, accumulator and `TXVALID` do not
name the state before. -/
theorem encoderIgnoresHistory : Obligations.EncoderIgnoresHistory := by
  intro i s s' t t' hi hx hx'
  obtain ⟨id, v, hrow⟩ := exec_encoder_row hi
  obtain rfl := hrow s t hx
  obtain rfl := hrow s' t' hx'
  exact ⟨by rw [encodeInto_txFrame, encodeInto_txFrame], by rw [encodeInto_acc, encodeInto_acc],
    by rw [encodeInto_txvalid, encodeInto_txvalid]⟩

end Sys2Proof.Machine

/-! ## The invariant (10_state.md R24 to R27, 20_memory.md R45)

The inversion of every instruction as field updates; each update keeps the invariant, and so does the reset event; from the
inversion of a step, every step does. In its range of `RXLEN` no instruction faults, and every admitted one completes. -/

namespace Sys2Proof.Machine

/-! ### What an instruction can do -/

/-- The inversion of an instruction by what it updates: the accumulator, the transmit side by the encoder, the receive side by
`RX.CLEAR` or `RX.PUSH`, or the accumulator and the verdict by `DEC.RESP` (R32). -/
theorem exec_cases {i : Instr} {s t : State} (hx : exec i s = .next t) :
    (∃ v, t = s.setAcc v) ∨
    (∃ id v, t = encodeInto id v s) ∨
    (t = (s.setRxlen 0).setResult .none) ∨
    (∃ b, s.rxlen < s.cfg.rxCap ∧ t = ((s.setByte .rx s.rxlen b).setRxlen (s.rxlen + 1)).setResult .none) ∨
    (t = (s.setAcc s.decRespAcc).setResult (verdictOf (decodeResponse s.cfg s.rxFrame))) := by
  rcases isOperation_or_frameWsc i with hop | ⟨a, v, l, h, rfl⟩
  · rcases exec_operation_cases hop hx with
      ⟨rfl, ht⟩ | ⟨b, rfl, ht⟩ | ⟨id, v, rfl, ht⟩ | ⟨rfl, ht⟩ | ⟨b, rfl, ht⟩ | ⟨rfl, ht⟩
    · exact .inl ⟨_, ht⟩
    · exact .inl ⟨_, ht⟩
    · exact .inr (.inl ⟨id, v, ht⟩)
    · exact .inr (.inr (.inl ht))
    · exact .inr (.inr (.inr (.inl ⟨b, (execRxPush_cases hx).1, ht⟩)))
    · exact .inr (.inr (.inr (.inr ht)))
  · exact .inr (.inl ⟨a, v, exec_frameWsc_cases hx⟩)

/-- Settles O30: none of the updates of `exec_cases` writes a field of the model's own. -/
theorem execKeepsModelFields : Obligations.ExecKeepsModelFields := by
  intro i s t hx
  rcases exec_cases hx with ⟨v, rfl⟩ | ⟨id, v, rfl⟩ | rfl | ⟨b, -, rfl⟩ | rfl
  case inr.inl => exact ⟨encodeInto_cfg s id v, encodeInto_epoch s id v, encodeInto_port s id v⟩
  all_goals exact ⟨rfl, rfl, rfl⟩

/-! ### Each update keeps the invariant -/

/-- A state in which nothing is written, valid or decided meets the invariant, whatever the model's own fields hold (R33). -/
theorem inv_reset_with (p : Params) (n : Nat) (es : List HostEvent) :
    ({ State.reset with cfg := p, epoch := n, port := es } : State).Inv := by
  have hbuffers : Memory.wf [] = true ∧ Memory.within Config.frameLen [] = true ∧
      Memory.wf [] = true ∧ Memory.within p.rxCap [] = true := ⟨rfl, rfl, rfl, rfl⟩
  exact ⟨hbuffers, ⟨Nat.zero_le _, fun i hi => absurd hi (Nat.not_lt_zero i)⟩, fun hv => Bool.noConfusion hv, .inl rfl⟩

/-- Neither the accumulator nor the stream stands in the invariant. -/
theorem State.Inv.setAcc {s : State} (hinv : s.Inv) (v : U16) : (s.setAcc v).Inv := hinv

theorem State.Inv.setPort {s : State} (hinv : s.Inv) (es : List HostEvent) : (s.setPort es).Inv := hinv

/-- The value can be read off the value field of the encoder's frame (R64). -/
theorem valueField_requestFrame (id : Byte) (v : Bool) :
    decide ((requestFrame id v).getD 4 0#8 = hi Config.valOn) = v := by
  cases v <;> rfl

/-- `ENC.WSC` leaves a request frame in `TXBUF` and the receive side as it was (R24, R113). -/
theorem State.Inv.encode {s : State} (hinv : s.Inv) (id : Byte) (v : Bool) : (encodeInto id v s).Inv := by
  obtain ⟨⟨hwf, hwithin, hrx⟩, hrange, -, hverdict⟩ := hinv
  have htxbuf : (encodeInto id v s).txbuf = (s.storeFrom .tx 0 (requestFrame id v)).txbuf := by rw [encodeInto_eq]; rfl
  refine ⟨⟨?wf, ?within, ?rx⟩, ?range, fun _ => ⟨fun i hi => ?written, ?frame⟩, ?verdict⟩
  case wf => rw [htxbuf]; exact s.storeFrom_tx_wf 0 _ hwf
  case within => rw [htxbuf]; exact s.storeFrom_tx_within 0 _ (Nat.le_refl 8) hwithin
  case rx => rwa [encodeInto_rxbuf, encodeInto_cfg]
  case range => rwa [State.RxOk, encodeInto_rxbuf, encodeInto_rxlen, encodeInto_cfg]
  case written => rw [encodeInto_read]; exact congrArg Option.isSome (if_pos hi)
  case frame =>
    rw [encodeInto_txFrame, encodeInto_byteAt s id v (by decide), encodeInto_byteAt s id v (by decide),
      valueField_requestFrame]
    rfl
  case verdict => rwa [State.VerdictOk, encodeInto_result, encodeInto_rxFrame, encodeInto_cfg]

/-- `RX.CLEAR` leaves no byte valid and withdraws the verdict (R126). -/
theorem State.Inv.clear {s : State} (hinv : s.Inv) : ((s.setRxlen 0).setResult .none).Inv := by
  obtain ⟨hbuffers, -, htx, -⟩ := hinv
  exact ⟨hbuffers, ⟨Nat.zero_le _, fun i hi => absurd hi (Nat.not_lt_zero i)⟩, htx, .inl rfl⟩

/-- `RX.PUSH` writes the byte it makes valid and withdraws the verdict (R127). -/
theorem State.Inv.push {s : State} (hinv : s.Inv) (b : Byte) (hroom : s.rxlen < s.cfg.rxCap) :
    (((s.setByte .rx s.rxlen b).setRxlen (s.rxlen + 1)).setResult .none).Inv := by
  obtain ⟨⟨htxwf, htxwithin, hwf, hwithin⟩, ⟨-, hwritten⟩, htx, -⟩ := hinv
  have hread (i : Nat) (hi : i < s.rxlen + 1) : ((s.rxbuf.write s.rxlen b).read i).isSome = true := by
    rw [Memory.read_write]
    split
    · rfl
    · next hne => exact hwritten i (Nat.lt_of_le_of_ne (Nat.le_of_lt_succ hi) hne)
  exact ⟨⟨htxwf, htxwithin, Memory.wf_write _ b hwf, Memory.within_write b hroom hwithin⟩, ⟨hroom, hread⟩, htx, .inl rfl⟩

/-- `DEC.RESP` writes just the verdict the invariant asks for (R27). -/
theorem State.Inv.decResp {s : State} (hinv : s.Inv) :
    ((s.setAcc s.decRespAcc).setResult (verdictOf (decodeResponse s.cfg s.rxFrame))).Inv := by
  obtain ⟨hbuffers, hrange, htx, -⟩ := hinv
  exact ⟨hbuffers, hrange, htx, .inr rfl⟩

/-- Every instruction carried out keeps the invariant. -/
theorem exec_keeps_inv {i : Instr} {s t : State} (hinv : s.Inv) (hx : exec i s = .next t) : t.Inv := by
  rcases exec_cases hx with ⟨v, rfl⟩ | ⟨id, v, rfl⟩ | rfl | ⟨b, hroom, rfl⟩ | rfl
  · exact hinv.setAcc v
  · exact hinv.encode id v
  · exact hinv.clear
  · exact hinv.push b hroom
  · exact hinv.decResp

/-- Every step keeps the invariant, by what the step was: idle, a reset event or an instruction. -/
theorem step_keeps_inv {s t : State} (hinv : s.Inv) (hstep : step s = .next t) : t.Inv := by
  rcases step_cases hstep with ⟨-, rfl⟩ | ⟨rest, -, rfl⟩ | ⟨w, rest, i, -, -, hx⟩
  · exact hinv
  · rw [resetEvent_eq]; exact inv_reset_with _ _ _
  · exact exec_keeps_inv (hinv.setPort rest) hx

/-! ### Completing, and not faulting -/

/-- With `RXLEN` beyond the capacity `DEC.RESP` does not stop at the length test, since `MIN_RESP_LEN <= 8 <= RX_CAP`. -/
theorem exec_decResp_fault {s : State} (hout : s.cfg.rxCap < s.rxlen) : exec .decResp s = .fault .indexOutsideRxbuf := by
  have hlong : s.cfg.minRespLen ≤ s.rxlen := (s.cfg.minRespLen_le.trans s.cfg.rxCap_ge).trans hout.le
  exact (if_neg hlong.not_gt).trans (if_pos hout)

theorem exec_rxPush_fault {s : State} (b : Byte) (hout : s.cfg.rxCap < s.rxlen) :
    exec (.rxPush b) s = .fault .indexOutsideRxbuf :=
  (if_neg hout.le.not_gt).trans (if_neg hout.ne')

/-- In the range of `RXLEN` an admitted instruction completes (R77, R183). -/
theorem exec_completes {i : Instr} {s : State} (hrange : s.rxlen ≤ s.cfg.rxCap) (hadm : admitted i s = true) :
    ∃ t, exec i s = .next t := by
  obtain ⟨hwf, hok⟩ := Bool.and_eq_true_iff.mp hadm
  cases i with
  | crcInit | crcByte _ | encWscOff _ | encWscOn _ | rxClear => exact ⟨_, rfl⟩
  | rxPush b => exact ⟨_, if_pos (of_decide_eq_true hok)⟩
  | decResp => exact ⟨_, exec_decResp_eq hrange⟩
  | frameWscOn _ _ _ | frameWscOff _ _ _ => exact ⟨_, if_pos hwf⟩

/-- In the range of `RXLEN` an instruction that is not admitted is refused: a push on a full buffer (R128), or a wire frame
with another trailer. -/
theorem exec_refused {i : Instr} {s : State} (hrange : s.rxlen ≤ s.cfg.rxCap) (hadm : admitted i s = false) :
    ∃ r, exec i s = .refused r := by
  cases i with
  | crcInit | crcByte _ | encWscOff _ | encWscOn _ | rxClear | decResp => cases hadm
  | rxPush b => exact ⟨_, exec_rxPush_full b (hrange.antisymm (Nat.le_of_not_lt (of_decide_eq_false hadm)))⟩
  | frameWscOn _ _ _ | frameWscOff _ _ _ =>
    have hill := (Bool.and_true _).symm.trans hadm
    exact ⟨_, if_neg (Bool.eq_false_iff.mp hill)⟩

theorem exec_ne_fault {i : Instr} {s : State} (hrange : s.rxlen ≤ s.cfg.rxCap) (f : Fault) : exec i s ≠ .fault f := by
  cases hadm : admitted i s with
  | true => obtain ⟨t, ht⟩ := exec_completes hrange hadm; rw [ht]; nofun
  | false => obtain ⟨r, hr⟩ := exec_refused hrange hadm; rw [hr]; nofun

/-- A step that faults carries out an instruction that does. -/
theorem step_fault_cases {s : State} {f : Fault} (hstep : step s = .fault f) :
    ∃ i rest, exec i (s.setPort rest) = .fault f := by
  unfold step at hstep
  split at hstep
  · cases hstep
  · cases hstep
  · split at hstep
    · next i _ => exact ⟨i, _, hstep⟩
    · cases hstep

/-- A step whose next event is admitted completes: it is idle, a reset event, or an instruction that completes. -/
theorem step_completes {s : State} (hrange : s.rxlen ≤ s.cfg.rxCap) (hadm : s.nextAdmitted = true) :
    ∃ t, step s = .next t := by
  unfold State.nextAdmitted at hadm
  unfold step
  split
  · exact ⟨_, rfl⟩
  · exact ⟨_, rfl⟩
  · next w rest hport =>
    rw [hport] at hadm
    dsimp only at hadm
    split
    · next i hd =>
      rw [hd] at hadm
      exact exec_completes (s := s.setPort rest) hrange hadm
    · next why hd => rw [hd] at hadm; cases hadm

/-! ### The statements about the invariant -/

/-- Settles O43: `step_keeps_inv`, the inversion of a step with one lemma per update of the state. -/
theorem stepKeepsInvariant : Obligations.StepKeepsInvariant := fun _ _ => step_keeps_inv

/-- Settles O42: the state after reset is the blank state with the default parameters. -/
theorem resetMeetsInvariant : Obligations.ResetMeetsInvariant := inv_reset_with _ _ _

/-- Settles O44: the invariant keeps `RXLEN` in its range, where no instruction faults. -/
theorem noFaultUnderInvariant : Obligations.NoFaultUnderInvariant := by
  intro s f hinv hstep
  obtain ⟨-, ⟨hrange, -⟩, -⟩ := hinv
  obtain ⟨i, rest, hx⟩ := step_fault_cases hstep
  exact exec_ne_fault (s := s.setPort rest) hrange f hx

/-- Settles O45: `step_completes` in the range the invariant gives, and `step_keeps_inv` for the next state. -/
theorem admittedStepCompletes : Obligations.AdmittedStepCompletes := by
  intro s hinv hadm
  have ⟨_, ⟨hrange, _⟩, _⟩ := hinv
  obtain ⟨t, ht⟩ := step_completes hrange hadm
  exact ⟨t, ht, step_keeps_inv hinv ht⟩

/-- Settles O17: beyond the capacity neither guard in front of the fault holds. -/
theorem lengthOutOfRangeFaults : Obligations.LengthOutOfRangeFaults :=
  fun b _ hout => ⟨exec_rxPush_fault b hout, exec_decResp_fault hout⟩

end Sys2Proof.Machine

/-! ## What the decoder's CRC check detects (42_frame_decoder.md R139, 40_crc_engine.md R102)

Both outcomes of `decodeResponse` past the length test are the residue of the whole frame being zero or not, and the fold of
the byte step is injective in the accumulator and in each byte; from these the error guarantees. -/

namespace Sys2Proof.Machine

/-! ### The byte step is injective -/

theorem crc16Step_left_injective (a : U16) : Function.Injective (crc16Step a) := by
  intro b b' hstep
  have hinjected : a ^^^ zext16 b = a ^^^ zext16 b' := (crc16Bits_bijective 8).injective hstep
  have hzext : zext16 b = zext16 b' := (BitVec.xor_right_inj a).mp hinjected
  rw [← lo_zext16 b, hzext, lo_zext16]

/-- Bytes that follow never bring two different accumulators together (R101 (b)). -/
theorem foldl_crc16Step_injective (bs : List Byte) : Function.Injective fun a => bs.foldl crc16Step a := by
  induction bs with
  | nil => exact Function.injective_id
  | cons b bs ih => exact ih.comp (crc16Step_bijective b).injective

theorem crc16Step_zero_eq_zero_iff {b : Byte} : crc16Step 0#16 b = 0#16 ↔ b = 0#8 :=
  (crc16Step_left_injective 0#16).eq_iff' (crc16Bits_zero 8)

/-- Zero bytes leave a zero accumulator at zero: the blind spot of R139 (d). -/
theorem foldl_crc16Step_zeros (n : Nat) : (List.replicate n 0x00#8).foldl crc16Step 0#16 = 0#16 := by
  induction n with
  | zero => rfl
  | succ n ih => rw [List.replicate_succ, List.foldl_cons, crc16Step_zero_eq_zero_iff.mpr rfl, ih]

/-- One byte changed changes the CRC (R139 (a)). -/
theorem crc16_set_ne {f : List Byte} {k : Nat} {b : Byte} (hk : k < f.length) (hb : f[k] ≠ b) :
    crc16 (f.set k b) ≠ crc16 f := by
  have hsplit : f = f.take k ++ f[k] :: f.drop (k + 1) := by simp
  intro hcrc
  rw [List.set_eq_take_append_cons_drop, if_pos hk] at hcrc
  conv_rhs at hcrc => rw [hsplit]
  rw [crc16_append, crc16_append] at hcrc
  exact hb (crc16Step_left_injective _ (foldl_crc16Step_injective _ hcrc)).symm

theorem u16_swap_ne {l h : Byte} (hne : l ≠ h) : u16 h l ≠ u16 l h := fun heq =>
  hne (by rw [← lo_u16 l h, ← heq, lo_u16])

/-! ### The outcomes of `decodeResponse` as residues -/

/-- A frame decodes `Ok` exactly when it is long enough and its residue is zero (R102, R130). -/
theorem exists_decodeResponse_ok_iff {p : Params} {f : List Byte} :
    (∃ r, decodeResponse p f = .ok r) ↔ p.minRespLen ≤ f.length ∧ crc16 f = 0#16 := by
  unfold decodeResponse
  split
  · next hshort => simp [hshort]
  · next hlong =>
    have hlen : p.minRespLen ≤ f.length := Nat.le_of_not_lt hlong
    have hcheck := crc16_frameBody_eq_frameCrc_iff (p.minRespLen_ge.trans hlen)
    split
    · next hcrc => simp [hlen, hcheck.mp hcrc]
    · next hcrc => simp [mt hcheck.mpr hcrc]

/-- A frame that is long enough decodes `CrcMismatch` when its residue is not zero (R102, R130). -/
theorem decodeResponse_eq_crcMismatch {p : Params} {f : List Byte} (hlen : p.minRespLen ≤ f.length)
    (hcrc : crc16 f ≠ 0#16) : decodeResponse p f = .error .crcMismatch := by
  have hcheck := crc16_frameBody_eq_frameCrc_iff (p.minRespLen_ge.trans hlen)
  rw [decodeResponse, if_neg hlen.not_gt, if_neg (mt hcheck.mp hcrc)]

/-! ### The statements of R139 -/

/-- Settles O23: the residue of the valid frame is zero, and the changed byte moves it away from there. -/
theorem singleByteErrorIsDetected : Obligations.SingleByteErrorIsDetected := by
  intro p f k b r hk hb hok
  obtain ⟨hlen, hzero⟩ := exists_decodeResponse_ok_iff.mp ⟨r, hok⟩
  have hne : f[k] ≠ b := fun heq => hb ((List.getElem?_eq_getElem hk).trans (congrArg some heq))
  exact decodeResponse_eq_crcMismatch (by rwa [List.length_set]) (hzero ▸ crc16_set_ne hk hne)

/-- Settles O24: a swapped trailer is another word; the length test stops a truncated frame; zero bytes keep a zero residue at
zero, and a byte that is not zero moves it away. -/
theorem decoderGuaranteesAndBlindSpot : Obligations.DecoderGuaranteesAndBlindSpot := by
  refine ⟨fun p body l h r hok hne => ?swap, fun p f k hk => ?truncated, fun p f n r hok => ?zeros⟩
  case swap =>
    obtain ⟨hlen, hzero⟩ := exists_decodeResponse_ok_iff.mp ⟨r, hok⟩
    refine decodeResponse_eq_crcMismatch (by simpa using hlen) fun hswapped => u16_swap_ne hne ?_
    rw [← (crc16_append_pair_eq_zero_iff body l h).mp hzero, (crc16_append_pair_eq_zero_iff body h l).mp hswapped]
  case truncated => exact decodeResponse_eq_tooShort_iff.mpr ((List.length_take_le k f).trans_lt hk)
  case zeros =>
    obtain ⟨hlen, hzero⟩ := exists_decodeResponse_ok_iff.mp ⟨r, hok⟩
    have hresidue : crc16 (f ++ List.replicate n 0x00#8) = 0#16 := by
      rw [crc16_append, hzero, foldl_crc16Step_zeros]
    have hlonger : p.minRespLen ≤ (f ++ List.replicate n 0x00#8).length := by
      rw [List.length_append]; exact hlen.trans (Nat.le_add_right _ _)
    refine ⟨exists_decodeResponse_ok_iff.mpr ⟨hlonger, hresidue⟩, fun b hb => decodeResponse_eq_crcMismatch ?_ ?_⟩
    · rw [List.length_append]; exact hlonger.trans (Nat.le_add_right _ _)
    · rw [crc16_append, hresidue]; exact mt crc16Step_zero_eq_zero_iff.mp hb

/-! ### What `DEC.RESP` reads, and the accumulator it shares -/

/-- Settles O25: the verdict, the record and the accumulator of `execDecResp_next` are functions of the parameters and the
inbound frame, which the valid bytes make up. -/
theorem decRespSeesOnlyValidBytes : Obligations.DecRespSeesOnlyValidBytes := by
  intro s s' t t' hcfg hlen hbytes hx hx'
  have hframe : s.rxFrame = s'.rxFrame := by
    rw [State.rxFrame, State.rxFrame, ← hlen]; exact State.readBytes_congr hbytes
  obtain rfl := execDecResp_next hx
  obtain rfl := execDecResp_next hx'
  refine ⟨?result, ?parsed, fun hlong => ?acc⟩
  case result => rw [State.setResult_result, State.setResult_result, hcfg, hframe]
  case parsed =>
    rw [State.parsed_of_result (p := s.cfg) rfl, State.parsed_of_result (p := s'.cfg) rfl, hcfg]
    exact congrArg (fun f => (decodeResponse s'.cfg f).toOption) hframe
  case acc =>
    have hlong' : ¬ s'.rxlen < s'.cfg.minRespLen := hcfg ▸ hlen ▸ hlong.not_gt
    have hacc : s.decRespAcc = crc16 (s.rxFrame.take (s.rxlen - 2)) := if_neg hlong.not_gt
    have hacc' : s'.decRespAcc = crc16 (s'.rxFrame.take (s'.rxlen - 2)) := if_neg hlong'
    rw [State.setResult_acc, State.setResult_acc, State.setAcc_acc, State.setAcc_acc, hacc, hacc', hframe, hlen]

/-- After a streaming computation, one more operation that leaves `ACC` the CRC of `bs`, and then a `CRC.BYTE`: the stream
continues from `bs` (R175). -/
theorem execAll_stream_then {bytes bs : List Byte} {i : Instr} {s u : State} (b : Byte)
    (hx : exec i (s.runEngine bytes) = .next u) (hacc : u.acc = crc16 bs) :
    ∃ t, execAll (.crcInit :: bytes.map .crcByte ++ [i, .crcByte b]) s = .next t ∧ t.crcOut = crc16 (bs ++ [b]) := by
  refine ⟨u.feed b, ?_, ?_⟩
  · have hstream : execAll (.crcInit :: bytes.map .crcByte) s = .next (s.runEngine bytes) := execAll_expandCrc16 bytes s
    rw [execAll_append _ hstream, execAll_cons _ hx]; rfl
  · rw [crc16_append, ← hacc]; rfl

/-- Settles O9: `execAll_stream_then` with the accumulator of the encoder and with that of `DEC.RESP`; neither names the host's
stream. -/
theorem accumulatorIsShared : Obligations.AccumulatorIsShared := by
  refine ⟨fun bytes id b v s => ?_, fun bytes b s hlong hrange => ?_⟩
  · rw [← header_eq]
    exact execAll_stream_then b (exec_encWsc id v _) (encodeInto_acc _ id v)
  · have hacc : (s.runEngine bytes).decRespAcc = crc16 (s.rxFrame.take (s.rxlen - 2)) := by
      rw [State.runEngine_eq]; exact if_neg hlong.not_gt
    have hrange' : (s.runEngine bytes).rxlen ≤ (s.runEngine bytes).cfg.rxCap := by rwa [State.runEngine_eq]
    exact execAll_stream_then b (exec_decResp_eq hrange') hacc

end Sys2Proof.Machine

/-! ## Steps and runs (20_memory.md R47, 30_encoding.md R73, 70_reset_and_hazards.md R170 and R184)

A step on an issued word, decoded or not; that no instruction looks at the stream, and with it a run of the stream; the words
that are refused, and the words of the spec's tables. -/

namespace Sys2Proof.Machine

/-! ### A step on an issued word -/

/-- A step on a word that decodes carries out its instruction (R47). -/
theorem step_issue {w : PortWord} {i : Instr} (s : State) (rest : List HostEvent) (hd : decode w = .ok i) :
    step { s with port := .issue w :: rest } = exec i { s with port := rest } := by
  simp only [step, hd]; rfl

/-- A step on a word that does not decode is refused (R73, R68). -/
theorem step_issue_error {w : PortWord} {why : DecodeError} (s : State) (rest : List HostEvent)
    (hd : decode w = .error why) : step { s with port := .issue w :: rest } = .refused (rejection w why) := by
  simp only [step, hd]

theorem step_idle {s : State} (hport : s.port = []) : step s = .next s := by rw [step, hport]

theorem decode_of_decodeTableWord {nbits w : Nat} {i : Instr} (hd : decodeTableWord nbits w = some i) :
    decode (tableWord nbits w) = .ok i := by
  unfold decodeTableWord at hd
  split at hd
  · next hok => rwa [← Option.some.inj hd]
  · cases hd

/-- Settles O39: `step_issue` and `step_idle`; the fetch word is the word issued, with the stream of the state behind it. -/
theorem stepRunsTheDecodedInstruction : Obligations.StepRunsTheDecodedInstruction :=
  ⟨fun s _ rest _ => step_issue s rest, fun _ => step_idle,
    fun s _ _ _ hd => step_issue s s.port (decode_of_decodeTableWord hd)⟩

/-! ### No instruction looks at the stream -/

/-- The outcome with its next state, if it has one, replaced. -/
def onNext (f : State → State) : Host.Outcome State Fault Refusal → Host.Outcome State Fault Refusal
  | .next t => .next (f t)
  | .fault r => .fault r
  | .refused r => .refused r

theorem State.storeFrom_setPort (s : State) (es : List HostEvent) (i : Nat) (vs : List Byte) :
    (s.setPort es).storeFrom .tx i vs = (s.storeFrom .tx i vs).setPort es := by
  induction vs generalizing s i with
  | nil => rfl
  | cons v vs ih => exact ih (s.setByte .tx i v) (i + 1)

theorem encodeInto_setPort (s : State) (es : List HostEvent) (id : Byte) (v : Bool) :
    encodeInto id v (s.setPort es) = (encodeInto id v s).setPort es := by
  rw [encodeInto_eq, encodeInto_eq, State.storeFrom_setPort]; rfl

theorem exec_frameWsc_setPort (a : Byte) (v : Bool) (l h : Byte) (s : State) (es : List HostEvent) :
    exec (frameWsc a v l h) (s.setPort es) = onNext (·.setPort es) (exec (frameWsc a v l h) s) := by
  rw [exec_frameWsc, exec_frameWsc, encodeInto_setPort]
  split <;> rfl

/-- An instruction does the same whatever the stream, and leaves the stream as it is (R10). -/
theorem exec_setPort (i : Instr) (s : State) (es : List HostEvent) :
    exec i (s.setPort es) = onNext (·.setPort es) (exec i s) := by
  cases i with
  | crcInit | crcByte _ | rxClear => rfl
  | encWscOff id => exact congrArg Host.Outcome.next (encodeInto_setPort s es id false)
  | encWscOn id => exact congrArg Host.Outcome.next (encodeInto_setPort s es id true)
  | rxPush b =>
    rcases lt_trichotomy s.rxlen s.cfg.rxCap with hroom | hfull | hout
    · have hx : exec (.rxPush b) s = .next (((s.setByte .rx s.rxlen b).setRxlen (s.rxlen + 1)).setResult .none) :=
        if_pos hroom
      rw [hx]; exact if_pos hroom
    · rw [exec_rxPush_full b hfull]; exact exec_rxPush_full (s := s.setPort es) b hfull
    · rw [exec_rxPush_fault b hout]; exact exec_rxPush_fault (s := s.setPort es) b hout
  | decResp =>
    rcases le_or_gt s.rxlen s.cfg.rxCap with hrange | hout
    · rw [exec_decResp_eq hrange]; exact exec_decResp_eq (s := s.setPort es) hrange
    · rw [exec_decResp_fault hout]; exact exec_decResp_fault (s := s.setPort es) hout
  | frameWscOn a l h => exact exec_frameWsc_setPort a true l h s es
  | frameWscOff a l h => exact exec_frameWsc_setPort a false l h s es

/-! ### A run of the stream -/

/-- Running the stream of well-formed instructions carries them out in order, each up to and including a stop (R47, R184). -/
theorem run_issueAll {ops : List Instr} (s : State) (rest : List HostEvent) (hwf : ∀ i ∈ ops, i.wf = true) :
    Host.Core.run Sys2Proof.core ops.length (s.setPort (issueAll ops ++ rest)) = execAll ops (s.setPort rest) := by
  induction ops generalizing s with
  | nil => rfl
  | cons i ops ih =>
    obtain ⟨hi, hops⟩ := List.forall_mem_cons.mp hwf
    -- The step on the longer stream is the instruction on the stream `rest`, with what is still to be issued put back.
    have hstep : step (s.setPort (issueAll (i :: ops) ++ rest)) =
        onNext (·.setPort (issueAll ops ++ rest)) (exec i (s.setPort rest)) :=
      (step_issue s (issueAll ops ++ rest) (decode_encode hi)).trans
        (exec_setPort i (s.setPort rest) (issueAll ops ++ rest))
    cases hx : exec i (s.setPort rest) with
    | next t =>
      rw [hx] at hstep
      obtain ⟨-, -, hport⟩ := execKeepsModelFields i _ t hx
      have hkept : t.setPort rest = t := congrArg t.setPort hport.symm
      rw [List.length_cons, run_succ_next hstep, ih t hops, execAll_cons ops hx, hkept]
    | fault f => rw [hx] at hstep; rw [List.length_cons, run_succ_fault hstep, execAll, hx]; rfl
    | refused r => rw [hx] at hstep; rw [List.length_cons, run_succ_refused hstep, execAll, hx]; rfl

/-- Settles O40: `run_issueAll`, by induction on the instructions. -/
theorem runOfStreamIsExecAll : Obligations.RunOfStreamIsExecAll :=
  fun _ s rest => run_issueAll s rest

/-! ### Words that are refused -/

/-- A step on a word from which no instruction is decoded is refused. -/
theorem step_refused_of_no_decode {w : PortWord} (s : State) (rest : List HostEvent) (hnone : ∀ i, decode w ≠ .ok i) :
    ∃ why, step { s with port := .issue w :: rest } = .refused (rejection w why) := by
  obtain ⟨why, hd⟩ := exists_error_iff.mpr hnone
  exact ⟨why, step_issue_error s rest hd⟩

/-- Settles O37: what decodes is a frame of the encoder. -/
theorem nonFrameRefused : Obligations.NonFrameRefused := by
  intro bytes s rest hnone
  refine step_refused_of_no_decode s rest fun i hd => ?_
  obtain ⟨id, v, henc⟩ := exists_decode_frame_iff.mp ⟨i, hd⟩
  exact hnone id v henc

/-- The reserved command words (R73). -/
def reservedWord (cmd : BitVec 16) : Prop :=
  cmd.extractLsb' 12 4 = 0#4 ∨ 7 ≤ (cmd.extractLsb' 12 4).toNat ∨ cmd.extractLsb' 9 3 ≠ 0#3 ∨
    (cmd.getLsbD 8 = true ∧ cmd.extractLsb' 12 4 ≠ 3#4) ∨
    (cmd.extractLsb' 0 8 ≠ 0#8 ∧
      (cmd.extractLsb' 12 4 = 1#4 ∨ cmd.extractLsb' 12 4 = 4#4 ∨ cmd.extractLsb' 12 4 = 6#4))

/-- Which composed words are reserved: `Z` is zero in every one. -/
theorem reservedWord_commandWord_iff {op : BitVec 16} {v : Bool} {b : Byte} : reservedWord (commandWord op v b) ↔
    op.setWidth 4 = 0#4 ∨ 7 ≤ (op.setWidth 4).toNat ∨ (v = true ∧ op.setWidth 4 ≠ 3#4) ∨
      (b ≠ 0#8 ∧ (op.setWidth 4 = 1#4 ∨ op.setWidth 4 = 4#4 ∨ op.setWidth 4 = 6#4)) := by
  rw [reservedWord, commandWord_op, commandWord_z, commandWord_v, commandWord_b, ne_self_iff_false, false_or]

/-- The word of an operation is not reserved: row by row, its code is one of 1 to 6, `V` is set only in `ENC.WSC`, and the rows
that take no byte have a zero one (R72). -/
theorem not_reservedWord_of_encode {i : Instr} {cmd : BitVec 16} (hop : isOperation i = true)
    (henc : encode i = .command cmd) : ¬ reservedWord cmd := by
  cases i with
  | crcInit | rxClear | decResp => cases henc; rw [reservedWord_commandWord_iff]; decide
  | crcByte _ | encWscOff _ | encWscOn _ | rxPush _ => cases henc; rw [reservedWord_commandWord_iff]; simp
  | frameWscOn _ _ _ | frameWscOff _ _ _ => cases hop

/-- Settles O36: a word that decodes is the word of an operation, and no such word is reserved. -/
theorem reservedWordRefused : Obligations.ReservedWordRefused := by
  intro cmd s rest hreserved
  refine step_refused_of_no_decode s rest fun i hd => ?_
  obtain ⟨henc, hop⟩ := encode_of_decode_command hd
  exact not_reservedWord_of_encode hop henc hreserved

/-! ### The words of the tables -/

/-- A table word that is the encoding of a well-formed instruction decodes to it. -/
theorem decodeTableWord_of_encode {nbits w : Nat} {i : Instr} (hword : tableWord nbits w = encode i)
    (hwf : i.wf = true) : decodeTableWord nbits w = some i := by
  rw [decodeTableWord, hword, decode_encode hwf]

/-- Settles O38: each word is the encoding of its row, and the trailers of the two frames are the CRCs of R114. -/
theorem wordsDecodeToTheirRows : Obligations.WordsDecodeToTheirRows := by
  have hon : (Instr.frameWscOn 0x01#8 0x8C#8 0x3A#8).wf = true := frameTrailerOk_iff.mpr (by rw [crc16_header_on1]; decide)
  have hoff : (Instr.frameWscOff 0x02#8 0xCD#8 0xF9#8).wf = true := frameTrailerOk_iff.mpr (by rw [crc16_header_off2]; decide)
  exact ⟨decodeTableWord_of_encode (by decide) rfl, decodeTableWord_of_encode (by decide) rfl,
    decodeTableWord_of_encode (by decide) rfl, decodeTableWord_of_encode (by decide) rfl,
    decodeTableWord_of_encode (by decide) rfl, decodeTableWord_of_encode (by decide) rfl,
    decodeTableWord_of_encode (by decide) rfl, decodeTableWord_of_encode (by decide) hon,
    decodeTableWord_of_encode (by decide) hoff⟩

end Sys2Proof.Machine

/-! ## Views of the state: `STATUS` and bytes without a value (10_state.md R25 and R28, 70_reset_and_hazards.md R170 and R179) -/

namespace Sys2Proof.Machine

/-- The fields of `STATUS` read back what it was put together from (R28): bits 7:3 zero, bits 2:1 the code, bit 0 the flag. -/
theorem status_fields : ∀ (code : BitVec 2) (v : Bool),
    (0#5 ++ code ++ BitVec.ofBool v : BitVec 8).getLsbD 0 = v ∧
    (0#5 ++ code ++ BitVec.ofBool v : BitVec 8).extractLsb' 1 2 = code ∧
    (0#5 ++ code ++ BitVec.ofBool v : BitVec 8).extractLsb' 3 5 = 0#5 := by decide

/-- Settles O26: `status_fields` for the view, the table of R27 for the codes, and the zero of `STATUS` at reset. -/
theorem statusFields : Obligations.StatusFields :=
  ⟨fun s => status_fields s.result.code s.txvalid, rfl, rfl, rfl, rfl, State.status_eq_zero rfl rfl⟩

/-- After the reset event no byte is written, so every byte of either buffer is a free value of the new epoch (R170, R179). -/
theorem byteAt_resetEvent (s : State) (b : Buffer) (k : Nat) :
    (resetEvent s).byteAt b k = Config.freeByte b (s.epoch + 1) k none := by
  cases b <;> rfl

/-- Settles O32: the step on a reset event is `resetEvent`, and `byteAt_resetEvent`. -/
theorem resetForgetsBuffers : Obligations.ResetForgetsBuffers :=
  fun s rest => ⟨_, step_reset s rest, byteAt_resetEvent (s.setPort rest), rfl, rfl⟩

/-- Settles O47: a byte at or above `RXLEN` is `byteAt_rx_invalid`; after `RX.CLEAR` every index is; and a byte of `TXBUF` with
nothing listed is the default of `byteAt_tx`. -/
theorem invalidBytesAreFree : Obligations.InvalidBytesAreFree := by
  refine ⟨fun s _ => s.byteAt_rx_invalid, fun s => ⟨_, exec_rxClear s, fun k => ?_, fun _ => rfl⟩, fun s k hk => ?_⟩
  · exact ((s.setRxlen 0).setResult .none).byteAt_rx_invalid (Nat.zero_le k)
  · rw [s.byteAt_tx, hk]; rfl

end Sys2Proof.Machine
